-- ==== Sys2Proof/Word.lean ====
section
/-! DEFINITION. The word types of the hardware (spec/00_scope.md R13: bit 0 is the least significant bit, all values
are unsigned) and the fixed widths of 10_state.md and 30_encoding.md. -/

namespace Sys2Proof

/-- One bit, or one pin level: `true` is 1 (high), `false` is 0 (low). -/
abbrev Bit := Bool

/-- Four bits: a glyph index, a digit operand, a queue index (R25, R26, R62, R95). -/
abbrev Nibble := BitVec 4

/-- Eight bits: the byte being sent, the digit-select mask, the dot mask (R27, R32, R93). -/
abbrev Byte := BitVec 8

/-- Five bits: one digit group of the input wire, format IG (R92). -/
abbrev Group := BitVec 5

/-- The displayed number, `VALUE_W = 16` bits at `N = 4` (R12, R31). -/
abbrev DisplayWord := BitVec 16

/-- The command word `cmd[39:0]` (R103). -/
abbrev CommandWord := BitVec 40

/-- The queue store `q[0..15]`: 16 cells of one bit (R24, R61). -/
abbrev CellStore := Vector Bit 16

end Sys2Proof
end

