-- ==== Sys2Proof/Config.lean ====
section
/-! DEFINITION. The build parameters and fixed constants of the hardware (spec/00_scope.md R6 to R11), and the FREE
VALUES of the model: opaque constants with no body, so that nothing can be proved of what they are. -/

namespace Sys2Proof

/-- One step of one agent (R75, R274): an edge event with the level of the data line, a tick event, one main-loop
iteration, or a reset by the environment. -/
inductive Event where
  | edge (level : Bit)
  | tick
  | iteration
  | reset
deriving DecidableEq, Repr, Inhabited

namespace Config

/-- `N`, the digit count. "This spec takes `N = 4`" (R6). -/
def N : Nat := 4

/-- `MAX_TIMEOUT`, the watchdog budget in refresh ticks. "This spec takes `MAX_TIMEOUT = 3`" (R7). -/
def maxTimeout : Nat := 3

/-- `REFRESH_PERIOD_US` (R8, R308). It enters no rule: the machine sees ticks only as events. -/
def refreshPeriodUs : Nat := 600

/-- `QCAP`, the number of queue cells (R9). -/
def qcap : Nat := 16

/-- `NGLYPH`, the number of glyph indices that carry data (R10). -/
def nGlyph : Nat := 15

/-- `BLANK`, the blank marker (R10, R95). -/
def blank : Nat := 15

/-- `GROUP_BITS`, the bits of one digit group (R11). -/
def groupBits : Nat := 5

/-- `BYTE_BITS`, the bits sent per load (R11). -/
def byteBits : Nat := 8

/-- DESIGN CHOICE (log entry 3). FREE VALUE: what a register of width `w` holds after a rule of the spec assigns it a
number `n` that does not fit. No run from reset assigns one (R46, R209). -/
opaque unfit (w n : Nat) : BitVec w

/-- DESIGN CHOICE (log entry 3). FREE VALUE: the bit `sr_value[7 - i]` for an `i` above 8, where there is no such bit.
No run from reset asks for it (R46). -/
opaque missingBit (i : Nat) : Bit

/-- DESIGN CHOICE (log entry 2). FREE VALUE: the content of the queue cells after the reset operation, which the
spec leaves unspecified (R24, R47; U2 of 93_implementation_defined.md: "any value"). One value for the machine, so that
a second reset in a row leaves the same cells (R72). -/
opaque unspecifiedCells : CellStore

/-- DESIGN CHOICE (log entry 1). FREE VALUE: which agent takes the step of draw number `k` when no command word is
pending, and with which level. "Which agent steps next is not decided by the hardware" (R75); the level is "a free
input of the step, chosen by the environment" (R42). -/
opaque schedule (k : Nat) : Event

end Config

end Sys2Proof
end

