-- ==== Sys2Proof/Machine/State.lean ====
section
/-! DEFINITION. The state of the machine as plain data (spec/10_state.md R20: "exactly the following elements and
nothing else"), the model's own fields after it, the reset state (R47), and the reasons a step can stop. -/

namespace Sys2Proof.Machine

/-- `sr_phase`: which clock phase the next `SR.STEP` issues (R29). -/
inductive Phase where
  | lowPending
  | highPending
deriving DecidableEq, Repr

/-- The four output signals (R40, R63). -/
inductive Pin where
  | ser
  | clk
  | cnt
  | rst
deriving DecidableEq, Repr

/-- One `PinWrite(p, l)` as an event of the output trace (R16, R41). -/
structure PinEvent where
  pin : Pin
  level : Bit
deriving DecidableEq, Repr

/-- `out.ser`, `out.clk`, `out.cnt`, `out.rst`: the level last driven, `none` if never driven since reset (R40). -/
structure Pins where
  ser : Option Bit
  clk : Option Bit
  cnt : Option Bit
  rst : Option Bit
deriving DecidableEq, Repr

/-- The three error conditions (R250). None stops the machine. -/
inductive HwError where
  | framingTimeout
  | invalidDigitValue
  | queueOverflow
deriving DecidableEq, Repr

/-- The status returned by `SR.STEP` (R96). -/
inductive Status where
  | beginning
  | middle
  | last
  | finished
deriving DecidableEq, Repr

/-- The three states of the framer, predicates over the state (R39, R201). -/
inductive FramerState where
  | idle
  | armed
  | accumulating
deriving DecidableEq, Repr

/-- What an operation returns to whoever issued it (R17, the "returns" column of R104). -/
inductive Result where
  | nothing
  /-- `None` or `Some(b)` of `BQ.READ`. -/
  | bitRead (r : Option Bit)
  /-- The status of `SR.STEP`. -/
  | status (st : Status)
  /-- The 1 bit of `GL.MATCH`. -/
  | glyphMatch (b : Bit)
  /-- The 8 bits of `GL.MASK`. -/
  | mask (m : Byte)
deriving DecidableEq, Repr

/-- The state of the machine. Up to `trace` the elements of R20; from `errorLog` on the model's own. -/
structure State where
  /-- `q[0..15]`, the queue store (R24). -/
  q : CellStore
  /-- `write_index` (R25). -/
  writeIndex : Nibble
  /-- `read_index` (R26). -/
  readIndex : Nibble
  /-- `sr_value` (R27). -/
  srValue : Byte
  /-- `sr_bit_index`, 0 to 8 (R28). -/
  srBitIndex : Nibble
  /-- `sr_phase` (R29). -/
  srPhase : Phase
  /-- `current_glyph`, 0 to 14 (R30). -/
  currentGlyph : Nibble
  /-- `display_value`, 0 to `10^N - 1` (R31). -/
  displayValue : DisplayWord
  /-- `display_dotmask` (R32). -/
  displayDotmask : Byte
  /-- `ser_input` (R33). -/
  serInput : Group
  /-- `ser_input_pos`, 0 to 4 (R34). -/
  serInputPos : BitVec 3
  /-- `digit_count`, 0 to `N` (R35). -/
  digitCount : Nibble
  /-- `timeout_counter`, 0 to `MAX_TIMEOUT` (R36). -/
  timeoutCounter : Byte
  /-- `input_mode`: `true` is input mode, `false` is display mode (R37, R98). -/
  inputMode : Bool
  /-- `refresh_needed` (R38). -/
  refreshNeeded : Bool
  /-- `out.ser`, `out.clk`, `out.cnt`, `out.rst` (R40). -/
  out : Pins
  /-- `trace`, oldest event first (R41). -/
  trace : List PinEvent
  /-- The model's own: the ghost log of signalled errors, oldest first (R18, R251). Nothing reads it. -/
  errorLog : List HwError
  /-- The model's own: what the operation executed last returned (R17). Nothing reads it. -/
  result : Result
  /-- The model's own: the command words issued and not yet executed, next first (R103; log entry 1). -/
  commands : List CommandWord
  /-- The model's own: how many times an agent has been chosen (log entry 1). -/
  drawn : Nat
deriving DecidableEq, Repr

/-- The machine right after reset (R47). The cells are unspecified there: zero is this model's DESIGN CHOICE (log
entry 2). -/
def State.reset : State where
  q := Vector.replicate 16 false
  writeIndex := 0
  readIndex := 0
  srValue := 0
  srBitIndex := 8
  srPhase := .lowPending
  currentGlyph := 0
  displayValue := 0
  displayDotmask := 0
  serInput := 0
  serInputPos := 0
  digitCount := 0
  timeoutCounter := 0
  inputMode := false
  refreshNeeded := false
  out := ⟨none, none, none, none⟩
  trace := []
  errorLog := []
  result := .nothing
  commands := []
  drawn := 0

/-- Faults: there is none. No access can fault (R74), no error condition stops the machine (R250), nothing traps
(R106). -/
inductive Fault where
deriving DecidableEq, Repr

/-- Refusals (R18: "`refuse` marks a request the spec gives no meaning"). All are SAFE: the spec gives no effect. -/
inductive Refusal where
  /-- An instruction with no meaning yet, rejected by its arm of `exec`. Safe. -/
  | notModelled (mnemonic : String)
  /-- Raised by `step`: a pending command word whose opcode R104 does not list (R106, U6). Safe. -/
  | reservedOpcode (code : BitVec 8)
  /-- Raised by `step`: a listed opcode with a 1 in an operand bit that must be 0 (R106, U6). Safe. -/
  | reservedOperand (code : BitVec 8)
  /-- Raised by `FR.PUSH`, and by an `FR.BIT` that flushes, with `digit_count >= N` (R204, U5). Safe. -/
  | pushBeyondFrame
  /-- Raised by `FR.TMO` with `timeout_counter == 0` (R206, U5). Safe. -/
  | watchdogNotLoaded
  /-- Raised by `FR.ITER` with `input_mode == 0` (R207, U5). Safe. -/
  | notInInputMode
deriving DecidableEq, Repr

end Sys2Proof.Machine
end

