-- ==== Sys2Proof/Machine/Flags.lean ====
section
/-! DEFINITION. The conditions computed from state, the hardware's only condition codes (spec/10_state.md R39), and the
occupancy of the queue (40_bit_queue_fifo.md R126). None is stored. -/

namespace Sys2Proof.Machine

/-- `empty` = (`write_index == read_index`) (R39, R124). -/
def State.queueEmpty (s : State) : Bool := s.writeIndex == s.readIndex

/-- `occ = (write_index - read_index) mod 16` (R126); the indices are 4 bits wide. -/
def State.occupancy (s : State) : Nat := (s.writeIndex - s.readIndex).toNat

/-- `sr_finished` = (`sr_bit_index == 8`) (R39). -/
def State.srFinished (s : State) : Bool := s.srBitIndex == 8

/-- The framer state as a predicate over `input_mode` and `timeout_counter` (R39, R201). -/
def State.framerState (s : State) : FramerState :=
  match s.inputMode, s.timeoutCounter == 0 with
  | false, _ => .idle
  | true, true => .armed
  | true, false => .accumulating

end Sys2Proof.Machine
end

