-- ==== Sys2Proof/Machine/Operands.lean ====
section
/-! DEFINITION. How operands and values are taken apart and put together (spec/30_encoding.md R92, R95 to R102;
20_memory.md R64 to R67), and the spec's numeric codes for its enumerations. -/

namespace Sys2Proof.Machine

/-- The number `n` as the content of a register of width `w`. A number that does not fit leaves a FREE VALUE in the
register (log entry 3). -/
def fit (w n : Nat) : BitVec w :=
  if n < 2 ^ w then BitVec.ofNat w n else Config.unfit w n

/-- `digit(v, p) = (v div pow10(p)) mod 10` (R100, R165). -/
def digitAt (v p : Nat) : Nat := v / 10 ^ p % 10

/-- `group[3:0]`, the digit of a group (R92). -/
def groupVal (g : Group) : Nat := g.toNat % 16

/-- `group[4]`, the decimal-point flag of a group (R92). -/
def groupDot (g : Group) : Bit := g.getLsbD 4

/-- `ser_input | (bit << ser_input_pos)` over the naturals (R14, R101). -/
def placeBit (acc : Nat) (bit : Bit) (pos : Nat) : Nat := acc ||| bit.toNat <<< pos

/-- `m[p] <- 1` for the masks of one byte (R32, R67, R93). -/
def setMaskBit (m : Byte) (p : Nat) : Byte := m ||| BitVec.ofNat 8 (2 ^ p)

/-- `sr_value[7 - i]`: the `i`-th bit sent, most significant first (R64). Where the byte has no such bit the bit is a
FREE VALUE (log entry 3). -/
def dataBit (v : Byte) (i : Nat) : Bit :=
  if i ≤ 7 then v.getLsbD (7 - i) else Config.missingBit i

/-- The 2-bit code of a status (R96). -/
def Status.code : Status → BitVec 2
  | .beginning => 0
  | .middle => 1
  | .last => 2
  | .finished => 3

/-- The 1-bit code of a clock phase (R97). -/
def Phase.code : Phase → BitVec 1
  | .lowPending => 0
  | .highPending => 1

/-- The result of `BQ.READ` as the 2 bits `{valid, bit}` (R99). -/
def readCode : Option Bit → BitVec 2
  | none => 0
  | some b => 2 + (BitVec.ofBool b).setWidth 2

/-- The number of an error in the ghost log (R251). -/
def HwError.code : HwError → Nat
  | .framingTimeout => 1
  | .invalidDigitValue => 2
  | .queueOverflow => 3

end Sys2Proof.Machine
end

