-- ==== Sys2Proof/Syntax.lean ====
section
/-! DEFINITION. The operations of the hardware, one constructor per row of spec/opcode_table.json (spec/30_encoding.md
R104), with the operand fields of R105. -/

namespace Sys2Proof

/-- The 19 operations (R104). Each operand has the width of its field in R105, so every term is an operation. -/
inductive Instr where
  /-- `CORE.RST`, reset (R234). -/
  | coreRst
  /-- `CORE.ITER`, one main-loop iteration (R233). -/
  | coreIter
  /-- `BQ.RESET` (R121). -/
  | bqReset
  /-- `BQ.WRITE` (R122). -/
  | bqWrite (bit : Bit)
  /-- `BQ.READ` (R123). -/
  | bqRead
  /-- `SR.LOAD` (R141). -/
  | srLoad (value : Byte)
  /-- `SR.STEP` (R142). -/
  | srStep
  /-- `GL.MATCH` (R161): the glyph first. -/
  | glMatch (glyph digit : Nibble)
  /-- `GL.MASK` (R166): the value first. -/
  | glMask (value : BitVec 28) (glyph : Nibble)
  /-- `MX.NEXT` (R181). -/
  | mxNext
  /-- `MX.STEP` (R182). -/
  | mxStep
  /-- `FR.BEGIN` (R202). -/
  | frBegin
  /-- `FR.BIT` (R203). -/
  | frBit (bit : Bit)
  /-- `FR.PUSH` (R204). -/
  | frPush (group : Group)
  /-- `FR.END` (R205). -/
  | frEnd
  /-- `FR.TMO` (R206). -/
  | frTmo
  /-- `FR.ITER` (R207). -/
  | frIter
  /-- `IRQ.EDGE` (R231). -/
  | irqEdge (level : Bit)
  /-- `IRQ.TICK` (R232). -/
  | irqTick
deriving DecidableEq, Repr

end Sys2Proof
end

