-- ==== Sys2Proof/Machine/Ops.lean ====
section
/-! DEFINITION. The named operations the meanings are built from: the queue cells (spec/00_scope.md R15), the pins
(R16), the errors (R18, R250), the delivery of an event to its handler (60_exceptions.md R257, R258, R267), and how an
operation ends. -/

namespace Sys2Proof.Machine

/-- What a step answers. -/
abbrev Answer := Host.Outcome State Fault Refusal

/-- `MemRead(i, 1)`: cell `i` of the queue store (R15, R61). -/
def State.readCell (s : State) (i : Nibble) : Bit := s.q[i.toNat]'i.isLt

/-- `MemWrite(i, 1, b)`: `q[i] <- b` (R15, R61). -/
def State.storeCell (s : State) (i : Nibble) (b : Bit) : State :=
  { s with q := s.q.set i.toNat b i.isLt }

/-- The levels after pin `p` is driven to `l` (R16, R40). -/
def Pins.drive (o : Pins) (p : Pin) (l : Bit) : Pins :=
  match p with
  | .ser => { o with ser := some l }
  | .clk => { o with clk := some l }
  | .cnt => { o with cnt := some l }
  | .rst => { o with rst := some l }

/-- `PinWrite(p, l)`: drives the pin and appends the event to the trace, also when the level does not change (R16,
R41, R262). -/
def State.pinWrite (s : State) (p : Pin) (l : Bit) : State :=
  { s with out := s.out.drive p l, trace := s.trace ++ [⟨p, l⟩] }

/-- `PinPulse(p)` (R16). -/
def State.pinPulse (s : State) (p : Pin) : State := (s.pinWrite p true).pinWrite p false

/-- `signal e`: an error condition occurred. It changes no state of the hardware and transfers no control; the ghost
log records it (R18, R250, R251). This is all that "taking an exception" is on this hardware: nothing is saved,
nothing vectors, and there is nothing to return from (R267, R269). -/
def State.signal (s : State) (e : HwError) : State := { s with errorLog := s.errorLog ++ [e] }

/-- Records what the operation returned (R17). -/
def State.returning (s : State) (r : Result) : State := { s with result := r }

/-- An operation that returns nothing and completes. -/
def done (s : State) : Answer := .next (s.returning .nothing)

/-- An operation that returns `r` and completes. -/
def answer (r : Result) (s : State) : Answer := .next (s.returning r)

/-- An operation that returns nothing and may have been refused. A refusal leaves no changed state behind (R18). -/
def settle : Except Refusal State → Answer
  | .ok s => done s
  | .error r => .refused r

/-- The handler or step that an event runs: each source has its one fixed handler, entered with nothing saved (R257,
R258, R267, R274). -/
def handlerOf : Event → Instr
  | .edge level => .irqEdge level
  | .tick => .irqTick
  | .iteration => .coreIter
  | .reset => .coreRst

end Sys2Proof.Machine
end

