-- ==== Sys2Proof/Machine/Queue.lean ====
section
/-! DEFINITION. Block bit_queue_fifo (spec/40_bit_queue_fifo.md): `BQ.RESET`, `BQ.WRITE`, `BQ.READ`. -/

namespace Sys2Proof.Machine

/-- `BQ.RESET`: both indices to 0, the cells unchanged (R121). -/
def bqReset (s : State) : State := { s with writeIndex := 0, readIndex := 0 }

/-- `BQ.WRITE(bit)`: stores, then advances mod 16; at occupancy 15 it also signals QueueOverflow (R122, R127, R254). -/
def bqWrite (bit : Bit) (s : State) : State :=
  let t := s.storeCell s.writeIndex bit
  let t := { t with writeIndex := s.writeIndex + 1 }
  if s.occupancy = 15 then t.signal .queueOverflow else t

/-- `BQ.READ`: nothing from an empty queue, else the bit at `read_index`, which advances mod 16 (R123). -/
def bqRead (s : State) : Option Bit × State :=
  if s.queueEmpty then (none, s)
  else (some (s.readCell s.readIndex), { s with readIndex := s.readIndex + 1 })

/-- The meaning of `BQ.RESET` (R121). -/
def execBqReset (s : State) : Answer := done (bqReset s)

/-- The meaning of `BQ.WRITE` (R122). -/
def execBqWrite (bit : Bit) (s : State) : Answer := done (bqWrite bit s)

/-- The meaning of `BQ.READ` (R123). -/
def execBqRead (s : State) : Answer := answer (.bitRead (bqRead s).1) (bqRead s).2

end Sys2Proof.Machine
end

