-- ==== Sys2Proof/Machine/Framer.lean ====
section
/-! DEFINITION. Block serial_input_framer_with_timeout (spec/44_serial_input_framer.md): `FR.BEGIN`, `FR.BIT`,
`FR.PUSH`, `FR.END`, `FR.TMO`, `FR.ITER`. An operation outside its precondition is refused whole (U5 of
93_implementation_defined.md). -/

namespace Sys2Proof.Machine

/-- `FR.BEGIN` (R202). The queue is not touched. -/
def frBegin (s : State) : State :=
  { s with
    digitCount := 0
    displayValue := 0
    displayDotmask := 0
    serInput := 0
    serInputPos := 0
    timeoutCounter := BitVec.ofNat 8 Config.maxTimeout }

/-- An accepted group of `FR.PUSH`: the dot bit and the digit go to position `digit_count` (R66, R102, R204). -/
def acceptDigit (group : Group) (s : State) : State :=
  { s with
    displayDotmask :=
      if groupDot group then setMaskBit s.displayDotmask s.digitCount.toNat else s.displayDotmask
    displayValue := fit 16 (s.displayValue.toNat + groupVal group * 10 ^ s.digitCount.toNat)
    digitCount := fit 4 (s.digitCount.toNat + 1) }

/-- `FR.PUSH(group)`: a value of 10 to 15 is discarded with its dot flag (R107, R204, R253); refused with
`digit_count >= N` (R204, U5). -/
def frPush (group : Group) (s : State) : Except Refusal State :=
  if Config.N ≤ s.digitCount.toNat then .error .pushBeyondFrame
  else if 10 ≤ groupVal group then .ok (s.signal .invalidDigitValue)
  else .ok (acceptDigit group s)

/-- The accumulator and the position cleared after a flush (R203). -/
def clearGroup (s : State) : State := { s with serInput := 0, serInputPos := 0 }

/-- The first two lines of `FR.BIT`: the bit is or-ed in and the position advances (R101, R203). -/
def takeBit (bit : Bit) (s : State) : State :=
  { s with
    serInput := fit 5 (placeBit s.serInput.toNat bit s.serInputPos.toNat)
    serInputPos := fit 3 (s.serInputPos.toNat + 1) }

/-- `FR.BIT(bit)`: every fifth bit flushes the group, whether it is accepted or discarded (R203). -/
def frBit (bit : Bit) (s : State) : Except Refusal State :=
  let t := takeBit bit s
  if t.serInputPos.toNat = Config.groupBits then
    match frPush t.serInput t with
    | .ok u => .ok (clearGroup u)
    | .error r => .error r
  else .ok t

/-- `FR.END`: leaves input mode; the queue is reset last (R205). -/
def frEnd (s : State) : State := bqReset { s with inputMode := false, timeoutCounter := 0 }

/-- The abort of a frame whose watchdog ran out (R206, R252). -/
def abortFrame (s : State) : State :=
  let t := frEnd (s.signal .framingTimeout)
  { t with displayDotmask := setMaskBit t.displayDotmask 0 }

/-- `FR.TMO`: one watchdog tick (R206); refused at 0 (U5). -/
def frTmo (s : State) : Except Refusal State :=
  if s.timeoutCounter = 0 then .error .watchdogNotLoaded
  else
    let t := { s with timeoutCounter := s.timeoutCounter - 1 }
    if t.timeoutCounter = 0 then .ok (abortFrame t) else .ok t

/-- How the drain loop of `FR.ITER` ended. -/
inductive DrainEnd where
  /-- The `N`-th digit was accepted and `FR.END` has run. -/
  | completed
  /-- `BQ.READ` returned `None`. -/
  | emptied
deriving DecidableEq, Repr

/-- The drain loop of `FR.ITER`, at most `k` turns (R207). Each turn reads one bit or ends the loop. -/
def drain : Nat → State → Except Refusal (DrainEnd × State)
  | 0, s => .ok (.emptied, s)
  | k + 1, s =>
    match bqRead s with
    | (none, t) => .ok (.emptied, t)
    | (some bit, t) =>
      match frBit bit t with
      | .error r => .error r
      | .ok u => if u.digitCount.toNat = Config.N then .ok (.completed, frEnd u) else drain k u

/-- The time-out bookkeeping of `FR.ITER`, once, after the drain (R207). -/
def bookkeeping (s : State) : Except Refusal State :=
  if s.refreshNeeded then frTmo { s with refreshNeeded := false } else .ok s

/-- `FR.ITER` (R207). The queue holds at most 15 bits, so 16 turns always end the drain loop. -/
def frIter (s : State) : Except Refusal State :=
  if s.inputMode then
    match drain Config.qcap (if s.timeoutCounter = 0 then frBegin s else s) with
    | .error r => .error r
    | .ok (.completed, t) => .ok t
    | .ok (.emptied, t) => bookkeeping t
  else .error .notInInputMode

/-- The meaning of `FR.BEGIN` (R202). -/
def execFrBegin (s : State) : Answer := done (frBegin s)

/-- The meaning of `FR.BIT` (R203). -/
def execFrBit (bit : Bit) (s : State) : Answer := settle (frBit bit s)

/-- The meaning of `FR.PUSH` (R204). -/
def execFrPush (group : Group) (s : State) : Answer := settle (frPush group s)

/-- The meaning of `FR.END` (R205). -/
def execFrEnd (s : State) : Answer := done (frEnd s)

/-- The meaning of `FR.TMO` (R206). -/
def execFrTmo (s : State) : Answer := settle (frTmo s)

/-- The meaning of `FR.ITER` (R207). -/
def execFrIter (s : State) : Answer := settle (frIter s)

end Sys2Proof.Machine
end

