-- ==== Sys2Proof/Machine/Glyph.lean ====
section
/-! DEFINITION. Block glyph_lut_decoder (spec/42_glyph_lut_decoder.md): `GL.MATCH`, `GL.MASK`. Pure functions of their
operands (R169). -/

namespace Sys2Proof.Machine

/-- The table `SHARED`, transcribed exactly (R162). -/
def shared : Nat → List Nat
  | 1 => [0, 3, 4, 7, 9]
  | 5 => [6]
  | 7 => [0, 3, 9]
  | 10 => [2, 6]
  | 11 => [3, 5, 6]
  | 12 => [4, 9]
  | 13 => [5, 6, 9]
  | 14 => [6]
  | _ => []

/-- `GL.MATCH(glyph, digit)`, the clauses in the order of R161. -/
def glMatch (glyph digit : Nat) : Bit :=
  if 14 < glyph then false
  else if 9 < digit then false
  else if digit = glyph then true
  else if digit = 8 then true
  else (shared glyph).contains digit

/-- The mask of the positions below `n` (R166). -/
def glMaskBelow (value glyph : Nat) : Nat → Byte
  | 0 => 0
  | p + 1 =>
    let mask := glMaskBelow value glyph p
    if glMatch glyph (digitAt value p) then setMaskBit mask p else mask

/-- `GL.MASK(value, glyph)`: one bit for each of the `N` positions (R166). -/
def glMask (value glyph : Nat) : Byte := glMaskBelow value glyph Config.N

/-- The meaning of `GL.MATCH` (R161). -/
def execGlMatch (glyph digit : Nibble) (s : State) : Answer :=
  answer (.glyphMatch (glMatch glyph.toNat digit.toNat)) s

/-- The meaning of `GL.MASK` (R166). -/
def execGlMask (value : BitVec 28) (glyph : Nibble) (s : State) : Answer :=
  answer (.mask (glMask value.toNat glyph.toNat)) s

end Sys2Proof.Machine
end

