-- ==== Sys2Proof/Machine/Sender.lean ====
section
/-! DEFINITION. Block shift_register_bit_banger (spec/41_shift_register_bit_banger.md): `SR.LOAD`, `SR.STEP`. -/

namespace Sys2Proof.Machine

/-- `SR.LOAD(value)`: no pin is written (R141). -/
def srLoad (value : Byte) (s : State) : State :=
  { s with srValue := value, srBitIndex := 0, srPhase := .lowPending }

/-- The low-clock phase of `SR.STEP`: the clock first, then the data (R142). -/
def srLowPhase (s : State) : State :=
  let t := (s.pinWrite .clk false).pinWrite .ser (dataBit s.srValue s.srBitIndex.toNat)
  { t with srPhase := .highPending }

/-- The high-clock phase of `SR.STEP` (R142). -/
def srHighPhase (s : State) : State :=
  let t := s.pinWrite .clk true
  { t with srBitIndex := fit 4 (s.srBitIndex.toNat + 1), srPhase := .lowPending }

/-- `SR.STEP` and its status (R142). -/
def srStep (s : State) : Status × State :=
  if s.srFinished then (.finished, s)
  else match s.srPhase with
    | .lowPending => (if s.srBitIndex = 0 then .beginning else .middle, srLowPhase s)
    | .highPending => (if (srHighPhase s).srFinished then .last else .middle, srHighPhase s)

/-- The meaning of `SR.LOAD` (R141). -/
def execSrLoad (value : Byte) (s : State) : Answer := done (srLoad value s)

/-- The meaning of `SR.STEP` (R142). -/
def execSrStep (s : State) : Answer := answer (.status (srStep s).1) (srStep s).2

end Sys2Proof.Machine
end

