-- ==== Sys2Proof/Machine/Sequencer.lean ====
section
/-! DEFINITION. Block display_multiplex_sequencer (spec/43_display_multiplex_sequencer.md): `MX.NEXT`, `MX.STEP`. -/

namespace Sys2Proof.Machine

/-- The first part of `MX.NEXT`: the glyph cursor advances, and at the blank marker pulses `rst` and wraps to 0
(R181). -/
def advanceGlyph (s : State) : State :=
  let t := { s with currentGlyph := fit 4 (s.currentGlyph.toNat + 1) }
  if t.currentGlyph.toNat = Config.blank then { t.pinPulse .rst with currentGlyph := 0 } else t

/-- `MX.NEXT`: starts a glyph cycle (R181). -/
def mxNext (s : State) : State :=
  let t := (advanceGlyph s).pinWrite .cnt true
  srLoad (glMask t.displayValue.toNat t.currentGlyph.toNat) t

/-- What `MX.STEP` does at `Finished`: lowers the count line and, only then, starts the next cycle if a tick is
pending (R182). -/
def mxFinished (s : State) : State :=
  let t := s.pinWrite .cnt false
  if t.refreshNeeded then mxNext { t with refreshNeeded := false } else t

/-- `MX.STEP`: `Last` is treated like `Beginning` and `Middle` (R182, R190). -/
def mxStep (s : State) : State :=
  match (srStep s).1 with
  | .finished => mxFinished (srStep s).2
  | .beginning => (srStep s).2
  | .middle => (srStep s).2
  | .last => (srStep s).2

/-- The meaning of `MX.NEXT` (R181). -/
def execMxNext (s : State) : Answer := done (mxNext s)

/-- The meaning of `MX.STEP` (R182). -/
def execMxStep (s : State) : Answer := done (mxStep s)

end Sys2Proof.Machine
end

