-- ==== Sys2Proof/Machine/Loop.lean ====
section
/-! DEFINITION. The steps of the agents (spec/45_handlers_and_main_loop.md): `IRQ.EDGE`, `IRQ.TICK`, `CORE.ITER`,
`CORE.RST`. -/

namespace Sys2Proof.Machine

/-- `IRQ.EDGE(level)`: the announce edge sets `input_mode` and does nothing else; any other edge is a data edge
(R231). -/
def irqEdge (level : Bit) (s : State) : State :=
  if s.inputMode then bqWrite level s else { s with inputMode := true }

/-- `IRQ.TICK` (R232). -/
def irqTick (s : State) : State := { s with refreshNeeded := true }

/-- `CORE.ITER`: the flag is read once, at the start (R233). -/
def coreIter (s : State) : Except Refusal State :=
  if s.inputMode then frIter s else .ok (mxStep s)

/-- `CORE.RST`: every element of the hardware takes its reset value (R47, R234); the cells, unspecified there, take a
FREE VALUE (log entry 2), the same at every reset, so the operation is idempotent (R72). The pending command words belong
to whoever issues them and stay. -/
def coreRst (s : State) : State :=
  { State.reset with
    q := Config.unspecifiedCells
    commands := s.commands
    drawn := s.drawn }

/-- The meaning of `IRQ.EDGE` (R231). -/
def execIrqEdge (level : Bit) (s : State) : Answer := done (irqEdge level s)

/-- The meaning of `IRQ.TICK` (R232). -/
def execIrqTick (s : State) : Answer := done (irqTick s)

/-- The meaning of `CORE.ITER` (R233). -/
def execCoreIter (s : State) : Answer := settle (coreIter s)

/-- The meaning of `CORE.RST` (R234). -/
def execCoreRst (s : State) : Answer := done (coreRst s)

end Sys2Proof.Machine
end

