-- ==== Sys2Proof/Machine/Dispatch.lean ====
section
/-! DEFINITION. One arm per operation of spec/opcode_table.json (spec/30_encoding.md R104). -/

namespace Sys2Proof.Machine

def exec (i : Instr) (s : State) : Host.Outcome State Fault Refusal :=
  match i with
  | .coreRst => Sys2Proof.Machine.execCoreRst s
  | .coreIter => Sys2Proof.Machine.execCoreIter s
  | .bqReset => Sys2Proof.Machine.execBqReset s
  | .bqWrite bit => Sys2Proof.Machine.execBqWrite bit s
  | .bqRead => Sys2Proof.Machine.execBqRead s
  | .srLoad value => Sys2Proof.Machine.execSrLoad value s
  | .srStep => Sys2Proof.Machine.execSrStep s
  | .glMatch glyph digit => Sys2Proof.Machine.execGlMatch glyph digit s
  | .glMask value glyph => Sys2Proof.Machine.execGlMask value glyph s
  | .mxNext => Sys2Proof.Machine.execMxNext s
  | .mxStep => Sys2Proof.Machine.execMxStep s
  | .frBegin => Sys2Proof.Machine.execFrBegin s
  | .frBit bit => Sys2Proof.Machine.execFrBit bit s
  | .frPush group => Sys2Proof.Machine.execFrPush group s
  | .frEnd => Sys2Proof.Machine.execFrEnd s
  | .frTmo => Sys2Proof.Machine.execFrTmo s
  | .frIter => Sys2Proof.Machine.execFrIter s
  | .irqEdge level => Sys2Proof.Machine.execIrqEdge level s
  | .irqTick => Sys2Proof.Machine.execIrqTick s

end Sys2Proof.Machine
end

