-- ==== Sys2Proof/WellFormed.lean ====
section
/-! DEFINITION. Which command words are well formed (spec/30_encoding.md R106): those that match a row of
spec/opcode_table.json. The operands of `Instr` carry the widths of R105 in their types, so every term of `Instr` is
well formed; what can be ill formed is a command word. The rows are written from the table's match and mask columns,
apart from the decoder. -/

namespace Sys2Proof

/-- A row of spec/opcode_table.json: a word belongs to it when the bits under `mask` equal `pattern`. -/
structure OpcodeRow where
  mnemonic : String
  pattern : CommandWord
  mask : CommandWord
deriving DecidableEq, Repr

/-- The 19 rows, in the table's order. -/
def opcodeRows : List OpcodeRow :=
  [ ⟨"CORE.RST", 0x0000000000, 0xFFFFFFFFFF⟩,
    ⟨"CORE.ITER", 0x0100000000, 0xFFFFFFFFFF⟩,
    ⟨"BQ.RESET", 0x1000000000, 0xFFFFFFFFFF⟩,
    ⟨"BQ.WRITE", 0x1100000000, 0xFFFFFFFFFE⟩,
    ⟨"BQ.READ", 0x1200000000, 0xFFFFFFFFFF⟩,
    ⟨"SR.LOAD", 0x2000000000, 0xFFFFFFFF00⟩,
    ⟨"SR.STEP", 0x2100000000, 0xFFFFFFFFFF⟩,
    ⟨"GL.MATCH", 0x3000000000, 0xFFFFFFFF00⟩,
    ⟨"GL.MASK", 0x3100000000, 0xFF00000000⟩,
    ⟨"MX.NEXT", 0x4000000000, 0xFFFFFFFFFF⟩,
    ⟨"MX.STEP", 0x4100000000, 0xFFFFFFFFFF⟩,
    ⟨"FR.BEGIN", 0x5000000000, 0xFFFFFFFFFF⟩,
    ⟨"FR.BIT", 0x5100000000, 0xFFFFFFFFFE⟩,
    ⟨"FR.PUSH", 0x5200000000, 0xFFFFFFFFE0⟩,
    ⟨"FR.END", 0x5300000000, 0xFFFFFFFFFF⟩,
    ⟨"FR.TMO", 0x5400000000, 0xFFFFFFFFFF⟩,
    ⟨"FR.ITER", 0x5500000000, 0xFFFFFFFFFF⟩,
    ⟨"IRQ.EDGE", 0x6000000000, 0xFFFFFFFFFE⟩,
    ⟨"IRQ.TICK", 0x6100000000, 0xFFFFFFFFFF⟩ ]

/-- The word belongs to the row. -/
def OpcodeRow.holds (row : OpcodeRow) (w : CommandWord) : Bool :=
  w &&& row.mask == row.pattern

/-- The word belongs to some row: its opcode is listed and every bit R105 says must be 0 is 0 (R106). -/
def wordWellFormed (w : CommandWord) : Bool :=
  opcodeRows.any fun row => row.holds w

end Sys2Proof
end

