-- ==== Sys2Proof/Decode.lean ====
section
/-! DEFINITION. The command word and its decoder (spec/30_encoding.md R103 to R106), total on every 40-bit word,
rejecting by name; the encoder after it; and the host's view of the decoder. -/

namespace Sys2Proof

/-- Why a command word is reserved (R106). -/
inductive Reserved where
  /-- An opcode that R104 does not list. -/
  | opcode (code : BitVec 8)
  /-- A listed opcode with a 1 in an operand bit that R105 says must be 0. -/
  | operand (code : BitVec 8)
deriving DecidableEq, Repr

/-- `cmd[39:32]` (R103). -/
def opcodeOf (w : CommandWord) : BitVec 8 := w.extractLsb' 32 8

/-- `cmd[31:0]` (R103). -/
def operandOf (w : CommandWord) : BitVec 32 := w.extractLsb' 0 32

/-- An operation whose operand field has its `width` low bits in use: the bits above must be 0 (R105). -/
def withOperand (w : CommandWord) (width : Nat) (i : Instr) : Except Reserved Instr :=
  if (operandOf w).toNat < 2 ^ width then .ok i else .error (.operand (opcodeOf w))

/-- Format B: `cmd[0]` (R105). -/
def fieldBit (w : CommandWord) : Bit := w.getLsbD 0

/-- Format V8: `cmd[7:0]` (R105). -/
def fieldByte (w : CommandWord) : Byte := w.extractLsb' 0 8

/-- Format GD: `glyph = cmd[7:4]` (R105). -/
def fieldMatchGlyph (w : CommandWord) : Nibble := w.extractLsb' 4 4

/-- The low nibble `cmd[3:0]`: the digit of format GD, the glyph of format VG (R105). -/
def fieldLowNibble (w : CommandWord) : Nibble := w.extractLsb' 0 4

/-- Format VG: `value = cmd[31:4]` (R105). -/
def fieldValue (w : CommandWord) : BitVec 28 := w.extractLsb' 4 28

/-- Format G5: `cmd[4:0]` (R105). -/
def fieldGroup (w : CommandWord) : Group := w.extractLsb' 0 5

/-- The decoder of command words (R103 to R106). -/
def decode (w : CommandWord) : Except Reserved Instr :=
  match (opcodeOf w).toNat with
  | 0x00 => withOperand w 0 .coreRst
  | 0x01 => withOperand w 0 .coreIter
  | 0x10 => withOperand w 0 .bqReset
  | 0x11 => withOperand w 1 (.bqWrite (fieldBit w))
  | 0x12 => withOperand w 0 .bqRead
  | 0x20 => withOperand w 8 (.srLoad (fieldByte w))
  | 0x21 => withOperand w 0 .srStep
  | 0x30 => withOperand w 8 (.glMatch (fieldMatchGlyph w) (fieldLowNibble w))
  | 0x31 => withOperand w 32 (.glMask (fieldValue w) (fieldLowNibble w))
  | 0x40 => withOperand w 0 .mxNext
  | 0x41 => withOperand w 0 .mxStep
  | 0x50 => withOperand w 0 .frBegin
  | 0x51 => withOperand w 1 (.frBit (fieldBit w))
  | 0x52 => withOperand w 5 (.frPush (fieldGroup w))
  | 0x53 => withOperand w 0 .frEnd
  | 0x54 => withOperand w 0 .frTmo
  | 0x55 => withOperand w 0 .frIter
  | 0x60 => withOperand w 1 (.irqEdge (fieldBit w))
  | 0x61 => withOperand w 0 .irqTick
  | _ => .error (.opcode (opcodeOf w))

/-- The opcode of an operation (R104). -/
def encodeOpcode : Instr → BitVec 8
  | .coreRst => 0x00
  | .coreIter => 0x01
  | .bqReset => 0x10
  | .bqWrite _ => 0x11
  | .bqRead => 0x12
  | .srLoad _ => 0x20
  | .srStep => 0x21
  | .glMatch _ _ => 0x30
  | .glMask _ _ => 0x31
  | .mxNext => 0x40
  | .mxStep => 0x41
  | .frBegin => 0x50
  | .frBit _ => 0x51
  | .frPush _ => 0x52
  | .frEnd => 0x53
  | .frTmo => 0x54
  | .frIter => 0x55
  | .irqEdge _ => 0x60
  | .irqTick => 0x61

/-- Format B as an operand field. -/
def bitOperand (b : Bit) : BitVec 32 := (BitVec.ofBool b).setWidth 32

/-- The operand field of an operation (R105); `a ++ b` puts `a` in the high bits. -/
def encodeOperand : Instr → BitVec 32
  | .coreRst => 0
  | .coreIter => 0
  | .bqReset => 0
  | .bqWrite bit => bitOperand bit
  | .bqRead => 0
  | .srLoad value => value.setWidth 32
  | .srStep => 0
  | .glMatch glyph digit => (glyph ++ digit).setWidth 32
  | .glMask value glyph => value ++ glyph
  | .mxNext => 0
  | .mxStep => 0
  | .frBegin => 0
  | .frBit bit => bitOperand bit
  | .frPush group => group.setWidth 32
  | .frEnd => 0
  | .frTmo => 0
  | .frIter => 0
  | .irqEdge level => bitOperand level
  | .irqTick => 0

/-- The command word `{opcode, operand}` of an operation (R103). -/
def encode (i : Instr) : CommandWord := encodeOpcode i ++ encodeOperand i

/-- The command word whose `nbits` low bits are those of `w` and whose other bits are 0. A command word is one unit of
40 bits numbered as spec/opcode_table.json numbers them (R103), so no byte order enters. -/
def commandOfBits (nbits w : Nat) : CommandWord := BitVec.ofNat 40 (w % 2 ^ nbits)

/-- What the decoder reads from an instruction whose bits are `w` (none where it refuses). -/
def decodeTableWord (nbits w : Nat) : Option Instr :=
  match decode (commandOfBits nbits w) with
  | .ok i => some i
  | .error _ => none

end Sys2Proof
end

