-- ==== Sys2Proof/Machine/Fetch.lean ====
section
/-! DEFINITION. Which operation the next step runs. The hardware fetches no instructions (spec/20_memory.md R81): a
pending command word is taken and decoded (30_encoding.md R103 to R106), and with none pending an agent steps, which
one being a FREE VALUE (20_memory.md R75; log entry 1). -/

namespace Sys2Proof.Machine

/-- The refusal that names why a word is reserved (R106). -/
def refusalOf : Reserved → Refusal
  | .opcode code => .reservedOpcode code
  | .operand code => .reservedOperand code

/-- The operation of the next step, and the state it runs in: the word taken, or the draw counted. -/
def fetch (s : State) : Except Refusal (Instr × State) :=
  match s.commands with
  | [] => .ok (handlerOf (Config.schedule s.drawn), { s with drawn := s.drawn + 1 })
  | w :: rest =>
    match decode w with
    | .ok i => .ok (i, { s with commands := rest })
    | .error r => .error (refusalOf r)

/-- The word is issued before every pending one. -/
def issueFirst (s : State) (w : CommandWord) : State := { s with commands := w :: s.commands }

end Sys2Proof.Machine
end

