-- ==== Sys2Proof/Machine/Step.lean ====
section
/-! DEFINITION. One step of the machine: one whole operation (spec/20_memory.md R71, R75). -/

namespace Sys2Proof.Machine

/-- One atomic step: the pending command word, or else the step of an agent. -/
def step (s : State) : Host.Outcome State Fault Refusal :=
  match fetch s with
  | .ok (i, t) => exec i t
  | .error r => .refused r

/-- The state with the instruction whose bits are `w` issued as the next command word. -/
def State.withFetchWord (s : State) (nbits w : Nat) : State :=
  issueFirst s (commandOfBits nbits w)

end Sys2Proof.Machine
end

