-- ==== Sys2Proof/Machine/Script.lean ====
section
/-! DEFINITION. Stimulus scripts (spec/30_encoding.md R111, R112): sequences of operations, and the pseudo-operations,
which are shorthand and add no behaviour. -/

namespace Sys2Proof.Machine

/-- The script executed, one operation after another, up to the first that does not complete. -/
def runScript : List Instr → State → Answer
  | [], s => .next s
  | i :: rest, s =>
    match exec i s with
    | .next t => runScript rest t
    | .fault f => .fault f
    | .refused r => .refused r

/-- What the operations of the script returned, in order, up to the first that does not complete. -/
def scriptResults : List Instr → State → List Result
  | [], _ => []
  | i :: rest, s =>
    match exec i s with
    | .next t => t.result :: scriptResults rest t
    | .fault _ => []
    | .refused _ => []

/-- `ITER n` (R112). -/
def iterScript (n : Nat) : List Instr := List.replicate n .coreIter

/-- `DIGIT d, dot`: one group in wire order, least significant bit first (R65, R91, R112). -/
def digitScript (d : Nibble) (dot : Bit) : List Instr :=
  [.irqEdge (d.getLsbD 0), .irqEdge (d.getLsbD 1), .irqEdge (d.getLsbD 2), .irqEdge (d.getLsbD 3), .irqEdge dot]

/-- `ANNOUNCE` (R112). -/
def announceScript : List Instr := [.irqEdge false]

/-- The digits of a frame, an iteration after each (R112). -/
def digitsScript : List (Nibble × Bit) → List Instr
  | [] => []
  | (d, dot) :: rest => digitScript d dot ++ .coreIter :: digitsScript rest

/-- `FRAME d0, ..., dN-1`, with a dot flag for each digit (R112). -/
def frameScript (digits : List (Nibble × Bit)) : List Instr :=
  announceScript ++ .coreIter :: digitsScript digits

/-- `SENDBYTE v` (R112). -/
def sendByteScript (v : Byte) : List Instr := .srLoad v :: List.replicate 17 .srStep

end Sys2Proof.Machine
end

