-- ==== Sys2Proof/Safety.lean ====
section
/-! DEFINITION. What a safe state and an execution of the hardware are, and the spec's own vocabulary that the
statements use: the invariants of spec/10_state.md R46, executions (20_memory.md R75), the unread bits of the queue
(40_bit_queue_fifo.md R126), the wire formats (30_encoding.md R91 to R94), the worked-out glyph relation (42 R163). -/

namespace Sys2Proof.Machine

/-- The ranges and relations of R46 that hold between any two operations, whoever invokes them: its first three
points, and DEDUCED from R202 and R204 that the digits accepted so far bound the value (R209; log entry 11). The ranges
that a register's width enforces are not repeated. -/
structure RangeInv (s : State) : Prop where
  bitIndex_le : s.srBitIndex.toNat ≤ 8
  glyph_le : s.currentGlyph.toNat ≤ 14
  pos_le : s.serInputPos.toNat ≤ 4
  digits_le : s.digitCount.toNat ≤ Config.N
  timeout_le : s.timeoutCounter.toNat ≤ Config.maxTimeout
  value_le : s.displayValue.toNat ≤ 10 ^ Config.N - 1
  value_lt : s.displayValue.toNat < 10 ^ s.digitCount.toNat
  dots_lt : s.displayDotmask.toNat < 2 ^ Config.N
  finished_low : s.srBitIndex.toNat = 8 → s.srPhase = .lowPending
  input_lt : s.serInput.toNat < 2 ^ s.serInputPos.toNat

/-- The invariant of executions: all of R46, and DEDUCED what holds in display mode because only `FR.END` leaves input
mode (R205, R236; log entry 11): the watchdog is 0 and the queue is empty. -/
structure ExecInv (s : State) : Prop extends RangeInv s where
  accumulating : s.framerState = .accumulating →
    s.displayValue.toNat < 10 ^ s.digitCount.toNat ∧ s.displayDotmask.toNat < 2 ^ s.digitCount.toNat ∧
      s.digitCount.toNat < Config.N
  idle : s.framerState = .idle → s.timeoutCounter.toNat = 0 ∧ s.queueEmpty = true

/-- The states of the executions of the hardware: from reset, with any content of the queue cells (U2), by steps of
the agents in any order (R75). -/
inductive Reachable : State → Prop where
  | reset (cells : CellStore) : Reachable { State.reset with q := cells }
  | step (e : Event) (s t : State) : Reachable s → exec (handlerOf e) s = .next t → Reachable t

/-- The unread bits of the queue, oldest first: the bits that successive reads return (R126). -/
def State.unread (s : State) : List Bit :=
  (List.range s.occupancy).map fun j => s.readCell (s.readIndex + BitVec.ofNat 4 j)

/-- Two states that agree on everything but queue cells that hold no unread bit (R129). -/
structure SameButDeadCells (s t : State) : Prop where
  rest : t = { s with q := t.q }
  unread : t.unread = s.unread

/-- Two answers of the same kind, with the same refusal or with next states that agree but for dead cells. -/
def AnswersAgree : Answer → Answer → Prop
  | .next s, .next t => SameButDeadCells s t
  | .refused r, .refused r' => r = r'
  | _, _ => False

/-- The events of one output byte, most significant bit first (item 3 of R94, R144). -/
def byteEvents (b : Byte) : List PinEvent :=
  (List.range 8).flatMap fun k => [⟨.clk, false⟩, ⟨.ser, b.getLsbD (7 - k)⟩, ⟨.clk, true⟩]

/-- The events that open a glyph cycle: the reset pulse only when the cursor has just reached 15, then the rise of the
count line (items 1 and 2 of R94). -/
def openingEvents (glyphBefore : Nat) : List PinEvent :=
  (if glyphBefore = 14 then [⟨.rst, true⟩, ⟨.rst, false⟩] else []) ++ [⟨.cnt, true⟩]

/-- The matching digits of each glyph, the last column of the table of R163. -/
def matchingDigits : Nat → List Nat
  | 0 => [0, 8]
  | 1 => [0, 1, 3, 4, 7, 8, 9]
  | 2 => [2, 8]
  | 3 => [3, 8]
  | 4 => [4, 8]
  | 5 => [5, 6, 8]
  | 6 => [6, 8]
  | 7 => [0, 3, 7, 8, 9]
  | 8 => [8]
  | 9 => [8, 9]
  | 10 => [2, 6, 8]
  | 11 => [3, 5, 6, 8]
  | 12 => [4, 8, 9]
  | 13 => [5, 6, 8, 9]
  | 14 => [6, 8]
  | _ => []

/-- The mask byte of a number: bit `p` is set exactly when position `p` is below `N` and its digit is among the
matching digits of the glyph (R163, R166). -/
def IsMaskOf (m : Byte) (value glyph : Nat) : Prop :=
  ∀ p, p < 8 → (m.getLsbD p = true ↔ p < Config.N ∧ value / 10 ^ p % 10 ∈ matchingDigits glyph)

/-- The number whose digit at position `k` is the `k`-th of the list (R66, R209). -/
def valueOfDigits : List (Nibble × Bit) → Nat
  | [] => 0
  | (d, _) :: rest => d.toNat + 10 * valueOfDigits rest

/-- The dot mask whose bit `k` is the flag of the `k`-th digit of the list (R66). -/
def dotsOfDigits : List (Nibble × Bit) → Nat
  | [] => 0
  | (_, dot) :: rest => dot.toNat + 2 * dotsOfDigits rest

/-- The digit group of a digit and its flag, format IG (R92). -/
def groupOf (d : Nibble) (dot : Bit) : Group := BitVec.ofBool dot ++ d

end Sys2Proof.Machine
end

