-- ==== Sys2Proof/Certificates/Slice0/Obligations.lean ====
section
/-! DEFINITION. The statements for the provers. `t = { s with f := t.f }` says that `t` differs from `s` in the named
fields at most: it is the frame of the statement, over every field of the state. -/

open Sys2Proof Sys2Proof.Machine

/-! ### Encoding -/

/-- Every operation, with every operand, is decoded from its own command word (R103 to R105). -/
def Obligations.EncodedOperationDecodesToItself : Prop :=
  ∀ i : Instr, decode (encode i) = .ok i

/-- A word has one meaning: a word that decodes is the command word of what it decodes to (R103 to R105). -/
def Obligations.DecodedWordIsTheEncodingOfItsOperation : Prop :=
  ∀ (w : CommandWord) (i : Instr), decode w = .ok i → encode i = w

/-- A word decodes exactly when it matches a row of the opcode table; every other word is reserved (R106). -/
def Obligations.WordDecodesExactlyWhenWellFormed : Prop :=
  ∀ w : CommandWord, (∃ i, decode w = .ok i) ↔ wordWellFormed w = true

/-- Command words written out in section 2.7 of 95_test_vectors.md decode as listed there. -/
def Obligations.WrittenWordsDecodeAsListed : Prop :=
  decodeTableWord 40 0x0100000000 = some .coreIter ∧
  decodeTableWord 40 0x1100000001 = some (.bqWrite true) ∧
  decodeTableWord 40 0x20000000A5 = some (.srLoad 0xA5) ∧
  decodeTableWord 40 0x3000000056 = some (.glMatch 5 6) ∧
  decodeTableWord 40 0x3100010E11 = some (.glMask 4321 1) ∧
  decodeTableWord 40 0x4100000000 = some .mxStep ∧
  decodeTableWord 40 0x5200000012 = some (.frPush 0b10010) ∧
  decodeTableWord 40 0x6000000001 = some (.irqEdge true) ∧
  decodeTableWord 40 0x1300000000 = none ∧
  decodeTableWord 40 0x5200000020 = none

/-! ### Steps -/

/-- A pending command word that decodes is taken and its operation runs. That words are pending in State is the model's
choice (log entry 1). -/
def Obligations.StepRunsTheDecodedCommand : Prop :=
  ∀ (s : State) (w : CommandWord) (rest : List CommandWord) (i : Instr),
    s.commands = w :: rest → decode w = .ok i → step s = exec i { s with commands := rest }

/-- A reserved command word is refused, naming whether its opcode or its operand bits are reserved (R106). -/
def Obligations.StepRefusesAReservedCommand : Prop :=
  ∀ (s : State) (w : CommandWord) (rest : List CommandWord),
    s.commands = w :: rest → wordWellFormed w = false →
      step s = .refused
        (if opcodeRows.any (fun row => row.pattern.extractLsb' 32 8 == w.extractLsb' 32 8)
          then .reservedOperand (w.extractLsb' 32 8) else .reservedOpcode (w.extractLsb' 32 8))

/-- With no command word pending one agent takes one whole step; which one is a free value (log entry 1, R75). -/
def Obligations.StepWithoutCommandRunsOneAgent : Prop :=
  ∀ s : State, s.commands = [] →
    ∃ e : Event, step s = exec (handlerOf e) { s with drawn := s.drawn + 1 }

/-- The words of a script, issued on the command port, make the machine run the script, and leave the words behind
them pending. The port is the model's choice (log entry 1), and so is that pending words survive a `CORE.RST` of the
script, which that entry calls unsafe. -/
def Obligations.IssuedWordsRunTheScript : Prop :=
  ∀ (script : List Instr) (s : State),
    Host.Core.run Sys2Proof.core script.length
        ({ s with commands := script.map encode ++ s.commands } : State) = runScript script s

/-! ### Reset -/

/-- `CORE.RST` completes in every state and gives every element of the hardware the value of the table of R47; the
queue cells are unspecified there and nothing is said of them. Its word is opcode 0x00 with no operand (R234). -/
def Obligations.CoreRstLeavesTheResetTable : Prop :=
  encode .coreRst = 0x0000000000 ∧ ∀ s : State, ∃ t, exec .coreRst s = .next t ∧
    t.writeIndex.toNat = 0 ∧ t.readIndex.toNat = 0 ∧ t.srValue.toNat = 0 ∧ t.srBitIndex.toNat = 8 ∧
    t.srPhase = .lowPending ∧ t.currentGlyph.toNat = 0 ∧ t.displayValue.toNat = 0 ∧
    t.displayDotmask.toNat = 0 ∧ t.serInput.toNat = 0 ∧ t.serInputPos.toNat = 0 ∧ t.digitCount.toNat = 0 ∧
    t.timeoutCounter.toNat = 0 ∧ t.inputMode = false ∧ t.refreshNeeded = false ∧
    t.out.ser = none ∧ t.out.clk = none ∧ t.out.cnt = none ∧ t.out.rst = none ∧ t.trace = [] ∧
    t.queueEmpty = true ∧ t.srFinished = true ∧ t.framerState = .idle

/-- The model's choice (log entries 1 and 4; no rule of the spec): what `CORE.RST` does to the fields that are the
model's own. The pending command words and the count of choices stay, the ghost log and the result are cleared. -/
def Obligations.CoreRstOnTheModelsOwnFields : Prop :=
  ∀ s : State, ∃ t, exec .coreRst s = .next t ∧
    t.commands = s.commands ∧ t.drawn = s.drawn ∧ t.result = .nothing ∧ t.errorLog = []

/-- The state the machine starts in holds every reset value the spec gives (R47). -/
def Obligations.ResetStateHoldsTheResetTable : Prop :=
  State.reset.writeIndex.toNat = 0 ∧ State.reset.readIndex.toNat = 0 ∧ State.reset.srValue.toNat = 0 ∧
  State.reset.srBitIndex.toNat = 8 ∧ State.reset.srPhase = .lowPending ∧ State.reset.currentGlyph.toNat = 0 ∧
  State.reset.displayValue.toNat = 0 ∧ State.reset.displayDotmask.toNat = 0 ∧ State.reset.serInput.toNat = 0 ∧
  State.reset.serInputPos.toNat = 0 ∧ State.reset.digitCount.toNat = 0 ∧ State.reset.timeoutCounter.toNat = 0 ∧
  State.reset.inputMode = false ∧ State.reset.refreshNeeded = false ∧
  State.reset.out.ser = none ∧ State.reset.out.clk = none ∧ State.reset.out.cnt = none ∧
  State.reset.out.rst = none ∧ State.reset.trace = []

/-- The first moments after reset (R291): an iteration before any tick only lowers the count line; the first
iteration after the first tick starts the cycle of glyph 1 with the mask of the number 0. -/
def Obligations.FirstCycleAfterResetIsGlyphOne : Prop :=
  ∀ cells : CellStore,
    ∃ t u, runScript [.coreIter] { State.reset with q := cells } = .next t ∧
      t = { State.reset with
            q := cells, out := ⟨none, none, some false, none⟩, trace := [⟨.cnt, false⟩] } ∧
      runScript [.irqTick, .coreIter] t = .next u ∧
      u = { t with
            currentGlyph := 1, srValue := 0x0F, srBitIndex := 0, out := ⟨none, none, some true, none⟩,
            trace := [⟨.cnt, false⟩, ⟨.cnt, false⟩, ⟨.cnt, true⟩] }

/-! ### The queue -/

/-- `BQ.RESET` clears both indices and changes nothing else, no cell in particular (R121). -/
def Obligations.BqResetClearsBothIndices : Prop :=
  encode .bqReset = 0x1000000000 ∧ ∀ s : State, ∃ t, exec .bqReset s = .next t ∧
    t = { s with writeIndex := 0, readIndex := 0, result := .nothing } ∧
    t.queueEmpty = true ∧ ∀ i, t.readCell i = s.readCell i

/-- `BQ.WRITE` stores the bit at `write_index` and advances it mod 16, whatever the occupancy; at occupancy 15 it
signals QueueOverflow and leaves the queue reporting empty, and nothing else differs (R122). -/
def Obligations.BqWriteStoresThenAdvances : Prop :=
  ∀ (s : State) (bit : Bit), (encode (.bqWrite bit)).toNat = 0x1100000000 + bit.toNat ∧ ∃ t, exec (.bqWrite bit) s = .next t ∧
    t = { s with q := t.q, writeIndex := t.writeIndex, errorLog := t.errorLog, result := .nothing } ∧
    t.writeIndex.toNat = (s.writeIndex.toNat + 1) % 16 ∧
    t.readCell s.writeIndex = bit ∧
    (∀ i, i ≠ s.writeIndex → t.readCell i = s.readCell i) ∧
    (t.queueEmpty = true ↔ (s.writeIndex.toNat + 16 - s.readIndex.toNat) % 16 = 15) ∧
    t.errorLog = s.errorLog ++
      (if (s.writeIndex.toNat + 16 - s.readIndex.toNat) % 16 = 15 then [.queueOverflow] else [])

/-- `BQ.READ` returns `None` and changes nothing when the indices are equal; else it returns the bit at `read_index`
and advances it mod 16 (R123). No cell changes. -/
def Obligations.BqReadReturnsTheBitAtTheReadIndex : Prop :=
  encode .bqRead = 0x1200000000 ∧ ∀ s : State, ∃ t, exec .bqRead s = .next t ∧
    t = { s with readIndex := t.readIndex, result := t.result } ∧
    (∀ i, t.readCell i = s.readCell i) ∧
    (if s.writeIndex = s.readIndex then t.result = .bitRead none ∧ t.readIndex = s.readIndex
      else t.result = .bitRead (some (s.readCell s.readIndex)) ∧
        t.readIndex.toNat = (s.readIndex.toNat + 1) % 16)

/-- The unread bits are a first-in first-out queue as long as no write is made at occupancy 15 (R76, R126). A write at
occupancy 15 leaves none of them readable (R127): this clause is about an overflow and holds for atomic steps only (U3 of
93_implementation_defined.md; log entry 6). -/
def Obligations.UnreadBitsAreFirstInFirstOut : Prop :=
  ∀ (s : State) (bit : Bit),
    (∃ t, exec (.bqWrite bit) s = .next t ∧
      t.unread = if s.unread.length = 15 then [] else s.unread ++ [bit]) ∧
    (∃ t, exec .bqRead s = .next t ∧ t.unread = s.unread.tail ∧ t.result = .bitRead s.unread.head?)

/-- From an empty queue, up to 15 bits written and then read come back in order, each once, and then `None` (R128). -/
def Obligations.QueueRoundTripReturnsTheBitsInOrder : Prop :=
  ∀ (s : State) (bits : List Bit), s.queueEmpty = true → bits.length ≤ 15 →
    ∃ t, runScript (bits.map .bqWrite) s = .next t ∧
      scriptResults (List.replicate (bits.length + 1) .bqRead) t =
        bits.map (fun b => .bitRead (some b)) ++ [.bitRead none]

/-- After the indices are reset and `k` bits are written with no read in between, exactly `k mod 16` bits are readable,
and they are the last `k mod 16` bits written, in order (R127). With `k` above 15 this is what is read after an overflow,
and holds for atomic steps only (U3 of 93_implementation_defined.md; log entry 6). -/
def Obligations.OverflowingWritesLeaveTheLastBitsReadable : Prop :=
  ∀ (s : State) (bits : List Bit),
    ∃ t, runScript (.bqReset :: bits.map .bqWrite) s = .next t ∧
      scriptResults (List.replicate (bits.length % 16 + 1) .bqRead) t =
        (bits.drop (bits.length - bits.length % 16)).map (fun b => .bitRead (some b)) ++ [.bitRead none]

/-- What a cell held at reset, or before the indices were last reset, cannot be observed: two states that agree but for
dead cells answer every operation alike, with the same result, and go on agreeing (R129). -/
def Obligations.DeadCellsAreUnobservable : Prop :=
  ∀ (script : List Instr) (s t : State), SameButDeadCells s t →
    AnswersAgree (runScript script s) (runScript script t) ∧ scriptResults script s = scriptResults script t

/-! ### The sender -/

/-- `SR.LOAD` writes the three registers of the sender and no pin (R141). -/
def Obligations.SrLoadStartsAByteAndWritesNoPin : Prop :=
  ∀ (s : State) (value : Byte), (encode (.srLoad value)).toNat = 0x2000000000 + value.toNat ∧
    exec (.srLoad value) s =
      .next { s with srValue := value, srBitIndex := 0, srPhase := .lowPending, result := .nothing }

/-- `SR.STEP`, in its three cases (R142, R145, R148). -/
def Obligations.SrStepIssuesOneClockPhase : Prop :=
  encode .srStep = 0x2100000000 ∧ ∀ s : State, s.srBitIndex.toNat ≤ 8 → ∃ t, exec .srStep s = .next t ∧
    if s.srBitIndex.toNat = 8 then t = { s with result := .status .finished }
    else if s.srPhase = .lowPending then
      t = { s with
            srPhase := .highPending
            out := { s.out with clk := some false, ser := some (s.srValue.getLsbD (7 - s.srBitIndex.toNat)) }
            trace := s.trace ++ [⟨.clk, false⟩, ⟨.ser, s.srValue.getLsbD (7 - s.srBitIndex.toNat)⟩]
            result := .status (if s.srBitIndex.toNat = 0 then .beginning else .middle) }
    else
      t = { s with
            srBitIndex := t.srBitIndex
            srPhase := .lowPending
            out := { s.out with clk := some true }
            trace := s.trace ++ [⟨.clk, true⟩]
            result := .status (if s.srBitIndex.toNat = 7 then .last else .middle) } ∧
        t.srBitIndex.toNat = s.srBitIndex.toNat + 1

/-- After `SR.LOAD`, call 1 returns `Beginning`, calls 2 to 15 `Middle`, call 16 `Last`, and every later call `Finished`;
after the 16th call the sender is finished, and a later call changes nothing (R143). -/
def Obligations.StatusSequenceOfOneByte : Prop :=
  ∀ (s : State) (value : Byte) (more : Nat),
    scriptResults (.srLoad value :: List.replicate (16 + more) .srStep) s =
      [.nothing, .status .beginning] ++ List.replicate 14 (.status .middle) ++ [.status .last] ++
        List.replicate more (.status .finished) ∧
    ∃ t u, runScript (.srLoad value :: List.replicate 16 .srStep) s = .next t ∧ t.srFinished = true ∧
      runScript (.srLoad value :: List.replicate (16 + more) .srStep) s = .next u ∧
      u = { t with result := u.result }

/-- After `SR.LOAD`, call `2k + 1` appends the fall of the clock and the bit `b[7-k]` to the trace, and call `2k + 2` the
rise of the clock: after `2k` calls the events of the first `k` bits stand there, after one call more two events more
(R144). -/
def Obligations.PinSequenceOfOneByte : Prop :=
  ∀ (s : State) (value : Byte) (k : Nat), k ≤ 8 →
    (∃ t, runScript (.srLoad value :: List.replicate (2 * k) .srStep) s = .next t ∧
      t.trace = s.trace ++ (byteEvents value).take (3 * k)) ∧
    (k < 8 → ∃ t, runScript (.srLoad value :: List.replicate (2 * k + 1) .srStep) s = .next t ∧
      t.trace = s.trace ++ (byteEvents value).take (3 * k + 2))

/-- After `SR.LOAD`, the sixteen acting calls put the byte on the pins most significant bit first and leave the clock
high and the data at bit 0; every later call changes nothing (R64, R144, R145). Nothing but the sender, two pins and the
trace changes. -/
def Obligations.ByteIsSentMostSignificantBitFirst : Prop :=
  ∀ (s : State) (value : Byte) (more : Nat),
    ∃ t, runScript (.srLoad value :: List.replicate (16 + more) .srStep) s = .next t ∧
      t = { s with
            srValue := value
            srBitIndex := 8
            srPhase := .lowPending
            out := { s.out with clk := some true, ser := some (value.getLsbD 0) }
            trace := s.trace ++ byteEvents value
            result := t.result }

/-! ### The glyph decoder -/

/-- `GL.MATCH` is the relation of the table of R163, over all 4-bit operands, and a function of its operands alone
(R163, R164, R169). -/
def Obligations.GlMatchIsTheWorkedOutRelation : Prop :=
  ∀ (s : State) (glyph digit : Nibble),
    (encode (.glMatch glyph digit)).toNat = 0x3000000000 + 16 * glyph.toNat + digit.toNat ∧
    exec (.glMatch glyph digit) s =
      .next { s with result := .glyphMatch (decide (digit.toNat ∈ matchingDigits glyph.toNat)) }

/-- `GL.MASK` sets exactly the bits of the positions below `N` whose decimal digit matches the glyph, and changes no
state (R165, R166, R169). -/
def Obligations.GlMaskSetsExactlyTheMatchingPositions : Prop :=
  ∀ (s : State) (value : BitVec 28) (glyph : Nibble),
    (encode (.glMask value glyph)).toNat = 0x3100000000 + 16 * value.toNat + glyph.toNat ∧
    ∃ m, exec (.glMask value glyph) s = .next { s with result := .mask m } ∧
      IsMaskOf m value.toNat glyph.toNat

/-! ### The sequencer -/

/-- `MX.NEXT` advances the glyph cursor, pulses `rst` when it wraps, raises `cnt` and loads the sender with the mask of
the displayed number; it writes neither `ser` nor `clk` (R181). -/
def Obligations.MxNextStartsAGlyphCycle : Prop :=
  encode .mxNext = 0x4000000000 ∧ ∀ s : State, s.currentGlyph.toNat ≤ 14 → ∃ t, exec .mxNext s = .next t ∧
    t = { s with
          currentGlyph := t.currentGlyph
          srValue := t.srValue
          srBitIndex := 0
          srPhase := .lowPending
          out := { s.out with
            cnt := some true, rst := if s.currentGlyph.toNat = 14 then some false else s.out.rst }
          trace := s.trace ++ openingEvents s.currentGlyph.toNat
          result := .nothing } ∧
    t.currentGlyph.toNat = (s.currentGlyph.toNat + 1) % 15 ∧
    IsMaskOf t.srValue s.displayValue.toNat t.currentGlyph.toNat

/-- `MX.STEP` makes one `SR.STEP`; only at `Finished` it lowers `cnt`, and only then, if a tick is pending, clears it and
starts the next cycle (R182, R185, R190). -/
def Obligations.MxStepStartsACycleOnlyWhenFinishedAndTicked : Prop :=
  encode .mxStep = 0x4100000000 ∧ ∀ s : State, RangeInv s → ∃ u t, exec .srStep s = .next u ∧ exec .mxStep s = .next t ∧
    if u.result = .status .finished then
      let low : State :=
        { s with out := { s.out with cnt := some false }, trace := s.trace ++ [PinEvent.mk .cnt false] }
      if s.refreshNeeded = true then exec .mxNext { low with refreshNeeded := false } = .next t
      else t = { low with result := .nothing }
    else t = { u with result := .nothing }

/-- `k` cycles move the glyph cursor `k` places round the fifteen glyphs and pulse `rst` once in every wrap (R184). -/
def Obligations.GlyphCursorGoesRoundFifteenGlyphs : Prop :=
  ∀ (s : State) (k : Nat), s.currentGlyph.toNat ≤ 14 →
    ∃ (t : State) (added : List PinEvent), runScript (List.replicate k .mxNext) s = .next t ∧
      t.currentGlyph.toNat = (s.currentGlyph.toNat + k) % 15 ∧
      t.trace = s.trace ++ added ∧
      added.count ⟨.rst, true⟩ = (s.currentGlyph.toNat + k) / 15 ∧
      added.count ⟨.cnt, true⟩ = k

/-- A whole glyph cycle on the pins: from a finished sender with a tick pending, seventeen iterations lower `cnt`, open
the cycle and send the mask byte of the displayed number, and the eighteenth lowers `cnt` again (R94, R183). Nothing
but the sender, the cursor, the pins and the tick flag changes. -/
def Obligations.GlyphCycleSendsTheMaskOnTheWire : Prop :=
  ∀ s : State, RangeInv s → s.inputMode = false → s.srFinished = true → s.refreshNeeded = true →
    ∃ m t, runScript (iterScript 18) s = .next t ∧
      IsMaskOf m s.displayValue.toNat ((s.currentGlyph.toNat + 1) % 15) ∧
      t.trace = s.trace ++ [⟨.cnt, false⟩] ++ openingEvents s.currentGlyph.toNat ++ byteEvents m ++
        [⟨.cnt, false⟩] ∧
      t.currentGlyph.toNat = (s.currentGlyph.toNat + 1) % 15 ∧
      t.srFinished = true ∧ t.refreshNeeded = false ∧
      t = { s with
            srValue := m, currentGlyph := t.currentGlyph, out := t.out, trace := t.trace,
            refreshNeeded := false, result := .nothing }

/-! ### The framer -/

/-- `FR.BEGIN` clears the frame, the value and the dots and loads the watchdog; the queue is not touched (R202). -/
def Obligations.FrBeginClearsTheFrameAndLoadsTheWatchdog : Prop :=
  encode .frBegin = 0x5000000000 ∧ ∀ s : State, ∃ t, exec .frBegin s = .next t ∧
    t = { s with
          digitCount := 0, displayValue := 0, displayDotmask := 0, serInput := 0, serInputPos := 0,
          timeoutCounter := t.timeoutCounter, result := .nothing } ∧
    t.timeoutCounter.toNat = 3 ∧ (s.inputMode = true → t.framerState = .accumulating)

/-- `FR.PUSH` of a value 0 to 9 puts the digit at decimal place `digit_count` and its flag at bit `digit_count`, and
advances `digit_count`; a value 10 to 15 changes nothing and signals InvalidDigitValue; with `digit_count >= N` the
operation is refused (R204). -/
def Obligations.FrPushAcceptsADigitOrDiscardsTheGroup : Prop :=
  ∀ (s : State) (group : Group),
    (encode (.frPush group)).toNat = 0x5200000000 + group.toNat ∧
    (Config.N ≤ s.digitCount.toNat → exec (.frPush group) s = .refused .pushBeyondFrame) ∧
    (RangeInv s → s.digitCount.toNat < Config.N → ∃ t, exec (.frPush group) s = .next t ∧
      if 10 ≤ group.toNat % 16 then
        t = { s with errorLog := s.errorLog ++ [.invalidDigitValue], result := .nothing }
      else
        t = { s with
              displayValue := t.displayValue, displayDotmask := t.displayDotmask,
              digitCount := t.digitCount, result := .nothing } ∧
        t.displayValue.toNat = s.displayValue.toNat + group.toNat % 16 * 10 ^ s.digitCount.toNat ∧
        t.digitCount.toNat = s.digitCount.toNat + 1 ∧
        ∀ p, p < 8 → t.displayDotmask.getLsbD p =
          (s.displayDotmask.getLsbD p || (decide (p = s.digitCount.toNat) && group.getLsbD 4)))

/-- `FR.BIT` puts the bit at position `ser_input_pos` of the accumulator; the fifth bit flushes the group, which is pushed
as by `FR.PUSH`, and clears the accumulator and the position, accepted or not (R203). -/
def Obligations.FrBitAccumulatesAndFlushesTheFifthBit : Prop :=
  ∀ (s : State) (bit : Bit), (encode (.frBit bit)).toNat = 0x5100000000 + bit.toNat ∧
    (RangeInv s → (s.serInputPos.toNat = 4 → s.digitCount.toNat < Config.N) →
    ∃ t, exec (.frBit bit) s = .next t ∧
      if s.serInputPos.toNat < 4 then
        t = { s with serInput := t.serInput, serInputPos := t.serInputPos, result := .nothing } ∧
        t.serInputPos.toNat = s.serInputPos.toNat + 1 ∧
        t.serInput.toNat = s.serInput.toNat + bit.toNat * 2 ^ s.serInputPos.toNat
      else ∃ u, exec (.frPush (groupOf (s.serInput.setWidth 4) bit)) s = .next u ∧
        t = { u with serInput := 0, serInputPos := 0 })

/-- `FR.END` leaves input mode, clears the watchdog and resets the queue; the value, the dots and the other registers
of the framer keep their values, and so does the tick flag (R205). -/
def Obligations.FrEndLeavesInputMode : Prop :=
  encode .frEnd = 0x5300000000 ∧ ∀ s : State, ∃ t, exec .frEnd s = .next t ∧
    t = { s with
          inputMode := false, timeoutCounter := 0, writeIndex := 0, readIndex := 0, result := .nothing } ∧
    t.framerState = .idle ∧ ∀ i, t.readCell i = s.readCell i

/-- `FR.TMO` takes one tick off the watchdog; at 0 it signals FramingTimeout, does what `FR.END` does and sets bit 0 of the
dot mask, the other bits kept; with the watchdog at 0 the operation is refused (R206). -/
def Obligations.FrTmoCountsDownOrAbortsTheFrame : Prop :=
  encode .frTmo = 0x5400000000 ∧ ∀ s : State,
    (s.timeoutCounter.toNat = 0 → exec .frTmo s = .refused .watchdogNotLoaded) ∧
    (s.timeoutCounter.toNat ≠ 0 → ∃ t, exec .frTmo s = .next t ∧
    if s.timeoutCounter.toNat = 1 then
      t = { s with
            inputMode := false, timeoutCounter := 0, writeIndex := 0, readIndex := 0,
            displayDotmask := s.displayDotmask ||| 1,
            errorLog := s.errorLog ++ [.framingTimeout], result := .nothing }
    else
      t = { s with timeoutCounter := t.timeoutCounter, result := .nothing } ∧
        t.timeoutCounter.toNat = s.timeoutCounter.toNat - 1)

/-- An `FR.BIT` whose flush reaches `FR.PUSH` with `digit_count >= N` is refused whole (U5 of
93_implementation_defined.md). -/
def Obligations.FlushBeyondTheFrameIsRefusedWhole : Prop :=
  ∀ (s : State) (bit : Bit), Config.N ≤ s.digitCount.toNat → s.serInputPos.toNat = 4 →
    exec (.frBit bit) s = .refused .pushBeyondFrame

/-- `FR.ITER` is the drain of the queue and then the bookkeeping (R207). In `Armed` it first does `FR.BEGIN`. It then takes
the unread bits one after another as `FR.BIT` does: if the `j`-th is the first that makes `digit_count` equal `N`, the
iteration ends there with `FR.END`; if none does, the queue is left empty and a pending tick is cleared and taken as by
`FR.TMO`. In display mode the operation is refused (U5 of 93_implementation_defined.md). -/
def Obligations.FrIterDrainsTheUnreadBitsThenCountsATick : Prop :=
  encode .frIter = 0x5500000000 ∧ ∀ s : State,
    (s.inputMode = false → exec .frIter s = .refused .notInInputMode) ∧
    (RangeInv s → s.inputMode = true →
    (s.timeoutCounter.toNat ≠ 0 → s.digitCount.toNat < Config.N) →
    ∃ begun t, exec .frIter s = .next t ∧
      (if s.timeoutCounter.toNat = 0 then exec .frBegin s = .next begun else begun = s) ∧
      ((∃ j u, j ≤ s.unread.length ∧
          runScript ((s.unread.take j).map .frBit) begun = .next u ∧ u.digitCount.toNat = Config.N ∧
          (∀ k v, k < j → runScript ((s.unread.take k).map .frBit) begun = .next v →
            v.digitCount.toNat < Config.N) ∧
          exec .frEnd u = .next t) ∨
        (∃ u, runScript (s.unread.map .frBit) begun = .next u ∧ u.digitCount.toNat < Config.N ∧
          let drained := { u with readIndex := u.writeIndex }
          if s.refreshNeeded = true then exec .frTmo { drained with refreshNeeded := false } = .next t
          else t = { drained with result := .nothing })))

/-- The digits pushed after `FR.BEGIN` stand at their positions: `display_value` is the sum of `d_p * 10^p`, `digit(display_value,
p)` is the `p`-th digit, and bit `p` of the dot mask its flag (R66, R209). -/
def Obligations.AcceptedDigitsStandAtTheirPositions : Prop :=
  ∀ (s : State) (digits : List (Nibble × Bit)),
    digits.length ≤ Config.N → (∀ d ∈ digits, d.1.toNat ≤ 9) →
    ∃ t, runScript (.frBegin :: digits.map fun d => .frPush (groupOf d.1 d.2)) s = .next t ∧
      t.digitCount.toNat = digits.length ∧
      t.displayValue.toNat = valueOfDigits digits ∧
      t.displayValue.toNat < 10 ^ digits.length ∧
      t.displayDotmask.toNat = dotsOfDigits digits ∧
      ∀ p d, digits[p]? = some d →
        t.displayValue.toNat / 10 ^ p % 10 = d.1.toNat ∧ t.displayDotmask.getLsbD p = d.2

/-- A discarded group costs nothing: after its five bits the framer is exactly as before its first (R210). -/
def Obligations.InvalidGroupLeavesTheFramerUnchanged : Prop :=
  ∀ (s : State) (d : Nibble) (dot : Bit), RangeInv s → s.digitCount.toNat < Config.N →
    s.serInputPos.toNat = 0 → 10 ≤ d.toNat →
      runScript [.frBit (d.getLsbD 0), .frBit (d.getLsbD 1), .frBit (d.getLsbD 2), .frBit (d.getLsbD 3),
          .frBit dot] s =
        .next { s with errorLog := s.errorLog ++ [.invalidDigitValue], result := .nothing }

/-! ### Handlers, main loop, whole machine -/

/-- The announce edge sets `input_mode` and nothing else, whatever the level; in input mode the edge is `BQ.WRITE` of the
level (R231). -/
def Obligations.IrqEdgeAnnouncesOrQueuesTheLevel : Prop :=
  ∀ (s : State) (level : Bit), (encode (.irqEdge level)).toNat = 0x6000000000 + level.toNat ∧ ∃ t, exec (.irqEdge level) s = .next t ∧
    if s.inputMode = true then exec (.bqWrite level) s = .next t
    else t = { s with inputMode := true, result := .nothing }

/-- `IRQ.TICK` sets `refresh_needed` and nothing else; a second tick is merged with the one pending (R38, R232). -/
def Obligations.IrqTickSetsTheFlagAndTicksMerge : Prop :=
  encode .irqTick = 0x6100000000 ∧ ∀ s : State,
    exec .irqTick s = .next { s with refreshNeeded := true, result := .nothing } ∧
    runScript [.irqTick, .irqTick] s = runScript [.irqTick] s

/-- The two handlers commute (R260). -/
def Obligations.EdgeAndTickHandlersCommute : Prop :=
  ∀ (s : State) (level : Bit), ∃ t,
    runScript [.irqEdge level, .irqTick] s = .next t ∧ runScript [.irqTick, .irqEdge level] s = .next t

/-- `CORE.ITER` is wholly an input-mode iteration or wholly a display-mode iteration (R233). -/
def Obligations.CoreIterRunsTheOperationOfItsMode : Prop :=
  encode .coreIter = 0x0100000000 ∧ ∀ s : State, exec .coreIter s = if s.inputMode = true then exec .frIter s else exec .mxStep s

/-- `CORE.ITER` completes in every state of an execution (R235), and its next state meets the invariant of executions
again, which holds more than R46: an idle watchdog at 0, an idle queue empty, and the value bound in every state are
DEDUCED (log entry 11). It never sets `input_mode` or `refresh_needed`, and writes no queue cell (R45). -/
def Obligations.CoreIterCompletesInEveryExecutionState : Prop :=
  ∀ s : State, ExecInv s → ∃ t, exec .coreIter s = .next t ∧ ExecInv t ∧
    t.q = s.q ∧ (t.inputMode = true → s.inputMode = true) ∧
    (t.refreshNeeded = true → s.refreshNeeded = true) ∧
    (s.inputMode = false → exec .mxStep s = .next t) ∧ (s.inputMode = true → exec .frIter s = .next t)

/-- Each element is written by its one agent (R45): the edge handler writes the cells and `write_index` and only sets
`input_mode`; the tick handler only sets `refresh_needed`; the main loop writes no cell, only clears the two flags, and
writes `write_index` only as it leaves input mode. -/
def Obligations.EveryFieldHasItsOneWriter : Prop :=
  ∀ (s t : State),
    (∀ level, exec (.irqEdge level) s = .next t →
      t = { s with q := t.q, writeIndex := t.writeIndex, inputMode := true, errorLog := t.errorLog,
                   result := .nothing }) ∧
    (exec .irqTick s = .next t → t = { s with refreshNeeded := true, result := .nothing }) ∧
    (exec .coreIter s = .next t →
      t.q = s.q ∧ (t.inputMode = true → s.inputMode = true) ∧
      (t.refreshNeeded = true → s.refreshNeeded = true) ∧
      (t.writeIndex ≠ s.writeIndex → s.inputMode = true ∧ t.inputMode = false) ∧
      t.commands = s.commands ∧ t.drawn = s.drawn)

/-- The ranges of R46 hold at reset, whatever the cells hold, and so do the clauses of the invariant of executions that
are DEDUCED beyond R46 (log entry 11). -/
def Obligations.ResetMeetsTheInvariants : Prop :=
  ∀ cells : CellStore, ExecInv { State.reset with q := cells }

/-- Every step keeps the ranges and relations of the registers, whatever word is pending and whichever agent steps. They
are the first three points of R46 and, DEDUCED (log entry 11), the bound of the value by `10^digit_count` in every state.
R46 speaks of the agents' steps; that internal operations issued alone keep them too follows from their own rules (R141,
R142, R181, R202 to R206, R209). -/
def Obligations.EveryStepKeepsTheRegisterRanges : Prop :=
  ∀ s t : State, RangeInv s → step s = .next t → RangeInv t

/-- Every step of an agent completes in a state that meets the invariant of executions, and keeps it: no error path
stops the machine (R235, R250). The invariant is R46 and, DEDUCED (log entry 11), that the watchdog is 0 and the queue
empty in display mode (R205, R231, R236) and that `10^digit_count` bounds the value in every state (R202, R204). -/
def Obligations.AgentStepsCompleteAndKeepTheInvariant : Prop :=
  ∀ (s : State) (e : Event), ExecInv s → ∃ t, exec (handlerOf e) s = .next t ∧ ExecInv t

/-- R46 holds in every state reachable from reset by steps of the agents, and so do the clauses of the invariant of
executions that are DEDUCED beyond R46 (log entry 11). -/
def Obligations.ReachableStatesMeetTheInvariants : Prop :=
  ∀ s : State, Reachable s → ExecInv s

/-- The machine runs for ever: with no command word pending, any number of steps completes, whatever agents step
(R235, R250; the choice of the agents is the free value of log entry 1). The state reached meets the invariant of
executions, whose clauses beyond R46 are DEDUCED (log entry 11), and no word is pending. -/
def Obligations.TheMachineNeverStops : Prop :=
  ∀ (s : State) (n : Nat), ExecInv s → s.commands = [] →
    ∃ t : State, Host.Core.run Sys2Proof.core n s = .next t ∧ ExecInv t ∧ t.commands = []

/-- The mode changes, all of them (R236): into input mode only by an edge event, out of it only by an iteration, or by
the reset operation. -/
def Obligations.ModeChangesOnlyByEdgeAndIteration : Prop :=
  ∀ (s t : State) (e : Event), exec (handlerOf e) s = .next t →
    (s.inputMode = false → t.inputMode = true → ∃ level, e = .edge level) ∧
    (s.inputMode = true → t.inputMode = false → e = .iteration ∨ e = .reset)

/-- In input mode no step of an agent, reset apart, writes a pin or moves the sender or the glyph cursor (R237). -/
def Obligations.InputModeFreezesTheOutputs : Prop :=
  ∀ (s t : State) (e : Event), s.inputMode = true → e ≠ .reset → exec (handlerOf e) s = .next t →
    t.out = s.out ∧ t.trace = s.trace ∧ t.srValue = s.srValue ∧ t.srBitIndex = s.srBitIndex ∧
      t.srPhase = s.srPhase ∧ t.currentGlyph = s.currentGlyph

/-- In display mode no step of an agent, reset apart, writes the displayed number, the dots or the framer's registers
(R188, R214). -/
def Obligations.DisplayModeKeepsTheNumber : Prop :=
  ∀ (s t : State) (e : Event), s.inputMode = false → e ≠ .reset → exec (handlerOf e) s = .next t →
    t.displayValue = s.displayValue ∧ t.displayDotmask = s.displayDotmask ∧ t.serInput = s.serInput ∧
      t.serInputPos = s.serInputPos ∧ t.digitCount = s.digitCount ∧ t.timeoutCounter = s.timeoutCounter

/-- The watchdog is never reloaded inside a frame: while accumulating, no step of an agent raises it, and it falls only
by one tick that the main loop consumes, or to 0 as input mode ends (R205, R208). -/
def Obligations.WatchdogIsNotReloadedInAFrame : Prop :=
  ∀ (s t : State) (e : Event), s.framerState = .accumulating → exec (handlerOf e) s = .next t →
    t.timeoutCounter.toNat ≤ s.timeoutCounter.toNat ∧
    (t.timeoutCounter ≠ s.timeoutCounter → t.inputMode = true →
      e = .iteration ∧ s.refreshNeeded = true ∧ t.refreshNeeded = false ∧
        t.timeoutCounter.toNat + 1 = s.timeoutCounter.toNat) ∧
    (t.inputMode = false → t.timeoutCounter.toNat = 0)

/-- A tick pending when a frame begins counts as its first watchdog tick (R212): the first iteration of a frame loads
the watchdog and leaves it at `MAX_TIMEOUT`, or one less if a tick was pending, and the frame goes on. -/
def Obligations.TickPendingAtEntryCounts : Prop :=
  ∀ s : State, ExecInv s → s.framerState = .armed → ∃ t, exec .coreIter s = .next t ∧
    t.framerState = .accumulating ∧ t.refreshNeeded = false ∧ t.queueEmpty = true ∧
    t.timeoutCounter.toNat = if s.refreshNeeded = true then 2 else 3

/-- A frame that stalls after its announce edge times out with the third tick: input mode ends, the dot mask is exactly
bit 0, the value is 0, FramingTimeout is signalled, and no pin is touched (R206, R252). -/
def Obligations.StalledFrameTimesOut : Prop :=
  ∀ s : State, ExecInv s → s.inputMode = false →
    ∃ t, runScript (announceScript ++ [.irqTick, .coreIter, .irqTick, .coreIter, .irqTick, .coreIter]) s = .next t ∧
      t = { s with
            writeIndex := 0, readIndex := 0, displayValue := 0, displayDotmask := 1, serInput := 0,
            serInputPos := 0, digitCount := 0, timeoutCounter := 0, inputMode := false,
            refreshNeeded := false, errorLog := s.errorLog ++ [.framingTimeout], result := .nothing }

/-- End to end: from any display-mode state of an execution with no tick pending, a frame of `N` digits with their
flags, an iteration after each group, leaves the digits at their positions, digit `k` in decimal place `10^k` and its
flag at bit `k`, back in display mode with the queue reset; nothing else but queue cells changes (R66, R91, R211). -/
def Obligations.FrameIsDecodedIntoTheDisplayedNumber : Prop :=
  ∀ (s : State) (digits : List (Nibble × Bit)), ExecInv s → s.inputMode = false → s.refreshNeeded = false →
    digits.length = Config.N → (∀ d ∈ digits, d.1.toNat ≤ 9) →
    ∃ t, runScript (frameScript digits) s = .next t ∧
      t = { s with
            q := t.q, writeIndex := 0, readIndex := 0, displayValue := t.displayValue,
            displayDotmask := t.displayDotmask, serInput := 0, serInputPos := 0, digitCount := 4,
            timeoutCounter := 0, result := .nothing } ∧
      t.displayValue.toNat = valueOfDigits digits ∧ t.displayDotmask.toNat = dotsOfDigits digits

/-- A frame that stalls after any number of digits short of `N` and any part of a group times out with the third tick:
input mode ends and the queue is reset, the digits and flags that had arrived stay, bit 0 of the dot mask is or-ed in, the
partly filled group is kept, FramingTimeout is signalled, and no pin is touched (R206, R252). -/
def Obligations.FrameStalledAfterSomeBitsKeepsThem : Prop :=
  ∀ (s : State) (digits : List (Nibble × Bit)) (part : List Bit),
    ExecInv s → s.inputMode = false → s.refreshNeeded = false →
    digits.length < Config.N → (∀ d ∈ digits, d.1.toNat ≤ 9) → part.length < 5 →
    ∃ t, runScript (frameScript digits ++ part.map .irqEdge ++ .coreIter ::
          [.irqTick, .coreIter, .irqTick, .coreIter, .irqTick, .coreIter]) s = .next t ∧
      t = { s with
            q := t.q, writeIndex := 0, readIndex := 0, displayValue := t.displayValue,
            displayDotmask := t.displayDotmask, serInput := t.serInput, serInputPos := t.serInputPos,
            digitCount := t.digitCount, timeoutCounter := 0,
            errorLog := s.errorLog ++ [.framingTimeout], result := .nothing } ∧
      t.displayValue.toNat = valueOfDigits digits ∧
      t.displayDotmask.toNat = dotsOfDigits digits ||| 1 ∧
      t.digitCount.toNat = digits.length ∧
      t.serInputPos.toNat = part.length ∧
      t.serInput.toNat < 2 ^ part.length ∧
      ∀ p b, part[p]? = some b → t.serInput.getLsbD p = b

/-- A second `BQ.RESET`, `SR.LOAD`, `FR.BEGIN`, `FR.END` or `CORE.RST` in a row leaves the state the first left; the trace is
untouched by the first four and cleared by the last (R72). -/
def Obligations.SecondResetLoadBeginOrEndInARowChangesNothing : Prop :=
  ∀ s : State,
    (∃ t, exec .bqReset s = .next t ∧ exec .bqReset t = .next t ∧ t.trace = s.trace) ∧
    (∀ value, ∃ t, exec (.srLoad value) s = .next t ∧ exec (.srLoad value) t = .next t ∧ t.trace = s.trace) ∧
    (∃ t, exec .frBegin s = .next t ∧ exec .frBegin t = .next t ∧ t.trace = s.trace) ∧
    (∃ t, exec .frEnd s = .next t ∧ exec .frEnd t = .next t ∧ t.trace = s.trace) ∧
    (∃ t, exec .coreRst s = .next t ∧ exec .coreRst t = .next t ∧ t.trace = [])
end

