-- ==== Sys2Proof/Laws/State.lean ====
section
/-! SUPPORT. What each named operation on the state leaves in each field, so that no later proof unfolds a record
update: one lemma per field and operation, each true by definition. -/

namespace Sys2Proof.Machine

@[simp] theorem State.storeCell_q (s : State) (i : Nibble) (b : Bit) : (s.storeCell i b).q =
    s.q.set i.toNat b i.isLt := rfl
@[simp] theorem State.storeCell_writeIndex (s : State) (i : Nibble) (b : Bit) : (s.storeCell i b).writeIndex =
    s.writeIndex := rfl
@[simp] theorem State.storeCell_readIndex (s : State) (i : Nibble) (b : Bit) : (s.storeCell i b).readIndex =
    s.readIndex := rfl
@[simp] theorem State.storeCell_srValue (s : State) (i : Nibble) (b : Bit) : (s.storeCell i b).srValue =
    s.srValue := rfl
@[simp] theorem State.storeCell_srBitIndex (s : State) (i : Nibble) (b : Bit) : (s.storeCell i b).srBitIndex =
    s.srBitIndex := rfl
@[simp] theorem State.storeCell_srPhase (s : State) (i : Nibble) (b : Bit) : (s.storeCell i b).srPhase =
    s.srPhase := rfl
@[simp] theorem State.storeCell_currentGlyph (s : State) (i : Nibble) (b : Bit) : (s.storeCell i b).currentGlyph =
    s.currentGlyph := rfl
@[simp] theorem State.storeCell_displayValue (s : State) (i : Nibble) (b : Bit) : (s.storeCell i b).displayValue =
    s.displayValue := rfl
@[simp] theorem State.storeCell_displayDotmask (s : State) (i : Nibble) (b : Bit) : (s.storeCell i b).displayDotmask =
    s.displayDotmask := rfl
@[simp] theorem State.storeCell_serInput (s : State) (i : Nibble) (b : Bit) : (s.storeCell i b).serInput =
    s.serInput := rfl
@[simp] theorem State.storeCell_serInputPos (s : State) (i : Nibble) (b : Bit) : (s.storeCell i b).serInputPos =
    s.serInputPos := rfl
@[simp] theorem State.storeCell_digitCount (s : State) (i : Nibble) (b : Bit) : (s.storeCell i b).digitCount =
    s.digitCount := rfl
@[simp] theorem State.storeCell_timeoutCounter (s : State) (i : Nibble) (b : Bit) : (s.storeCell i b).timeoutCounter =
    s.timeoutCounter := rfl
@[simp] theorem State.storeCell_inputMode (s : State) (i : Nibble) (b : Bit) : (s.storeCell i b).inputMode =
    s.inputMode := rfl
@[simp] theorem State.storeCell_refreshNeeded (s : State) (i : Nibble) (b : Bit) : (s.storeCell i b).refreshNeeded =
    s.refreshNeeded := rfl
@[simp] theorem State.storeCell_out (s : State) (i : Nibble) (b : Bit) : (s.storeCell i b).out = s.out := rfl
@[simp] theorem State.storeCell_trace (s : State) (i : Nibble) (b : Bit) : (s.storeCell i b).trace = s.trace := rfl
@[simp] theorem State.storeCell_errorLog (s : State) (i : Nibble) (b : Bit) : (s.storeCell i b).errorLog =
    s.errorLog := rfl
@[simp] theorem State.storeCell_result (s : State) (i : Nibble) (b : Bit) : (s.storeCell i b).result = s.result := rfl
@[simp] theorem State.storeCell_commands (s : State) (i : Nibble) (b : Bit) : (s.storeCell i b).commands =
    s.commands := rfl
@[simp] theorem State.storeCell_drawn (s : State) (i : Nibble) (b : Bit) : (s.storeCell i b).drawn = s.drawn := rfl

@[simp] theorem State.pinWrite_q (s : State) (p : Pin) (l : Bit) : (s.pinWrite p l).q = s.q := rfl
@[simp] theorem State.pinWrite_writeIndex (s : State) (p : Pin) (l : Bit) : (s.pinWrite p l).writeIndex =
    s.writeIndex := rfl
@[simp] theorem State.pinWrite_readIndex (s : State) (p : Pin) (l : Bit) : (s.pinWrite p l).readIndex =
    s.readIndex := rfl
@[simp] theorem State.pinWrite_srValue (s : State) (p : Pin) (l : Bit) : (s.pinWrite p l).srValue = s.srValue := rfl
@[simp] theorem State.pinWrite_srBitIndex (s : State) (p : Pin) (l : Bit) : (s.pinWrite p l).srBitIndex =
    s.srBitIndex := rfl
@[simp] theorem State.pinWrite_srPhase (s : State) (p : Pin) (l : Bit) : (s.pinWrite p l).srPhase = s.srPhase := rfl
@[simp] theorem State.pinWrite_currentGlyph (s : State) (p : Pin) (l : Bit) : (s.pinWrite p l).currentGlyph =
    s.currentGlyph := rfl
@[simp] theorem State.pinWrite_displayValue (s : State) (p : Pin) (l : Bit) : (s.pinWrite p l).displayValue =
    s.displayValue := rfl
@[simp] theorem State.pinWrite_displayDotmask (s : State) (p : Pin) (l : Bit) : (s.pinWrite p l).displayDotmask =
    s.displayDotmask := rfl
@[simp] theorem State.pinWrite_serInput (s : State) (p : Pin) (l : Bit) : (s.pinWrite p l).serInput =
    s.serInput := rfl
@[simp] theorem State.pinWrite_serInputPos (s : State) (p : Pin) (l : Bit) : (s.pinWrite p l).serInputPos =
    s.serInputPos := rfl
@[simp] theorem State.pinWrite_digitCount (s : State) (p : Pin) (l : Bit) : (s.pinWrite p l).digitCount =
    s.digitCount := rfl
@[simp] theorem State.pinWrite_timeoutCounter (s : State) (p : Pin) (l : Bit) : (s.pinWrite p l).timeoutCounter =
    s.timeoutCounter := rfl
@[simp] theorem State.pinWrite_inputMode (s : State) (p : Pin) (l : Bit) : (s.pinWrite p l).inputMode =
    s.inputMode := rfl
@[simp] theorem State.pinWrite_refreshNeeded (s : State) (p : Pin) (l : Bit) : (s.pinWrite p l).refreshNeeded =
    s.refreshNeeded := rfl
@[simp] theorem State.pinWrite_out (s : State) (p : Pin) (l : Bit) : (s.pinWrite p l).out = s.out.drive p l := rfl
@[simp] theorem State.pinWrite_trace (s : State) (p : Pin) (l : Bit) : (s.pinWrite p l).trace =
    s.trace ++ [⟨p, l⟩] := rfl
@[simp] theorem State.pinWrite_errorLog (s : State) (p : Pin) (l : Bit) : (s.pinWrite p l).errorLog =
    s.errorLog := rfl
@[simp] theorem State.pinWrite_result (s : State) (p : Pin) (l : Bit) : (s.pinWrite p l).result = s.result := rfl
@[simp] theorem State.pinWrite_commands (s : State) (p : Pin) (l : Bit) : (s.pinWrite p l).commands =
    s.commands := rfl
@[simp] theorem State.pinWrite_drawn (s : State) (p : Pin) (l : Bit) : (s.pinWrite p l).drawn = s.drawn := rfl

@[simp] theorem State.signal_q (s : State) (e : HwError) : (s.signal e).q = s.q := rfl
@[simp] theorem State.signal_writeIndex (s : State) (e : HwError) : (s.signal e).writeIndex = s.writeIndex := rfl
@[simp] theorem State.signal_readIndex (s : State) (e : HwError) : (s.signal e).readIndex = s.readIndex := rfl
@[simp] theorem State.signal_srValue (s : State) (e : HwError) : (s.signal e).srValue = s.srValue := rfl
@[simp] theorem State.signal_srBitIndex (s : State) (e : HwError) : (s.signal e).srBitIndex = s.srBitIndex := rfl
@[simp] theorem State.signal_srPhase (s : State) (e : HwError) : (s.signal e).srPhase = s.srPhase := rfl
@[simp] theorem State.signal_currentGlyph (s : State) (e : HwError) : (s.signal e).currentGlyph =
    s.currentGlyph := rfl
@[simp] theorem State.signal_displayValue (s : State) (e : HwError) : (s.signal e).displayValue =
    s.displayValue := rfl
@[simp] theorem State.signal_displayDotmask (s : State) (e : HwError) : (s.signal e).displayDotmask =
    s.displayDotmask := rfl
@[simp] theorem State.signal_serInput (s : State) (e : HwError) : (s.signal e).serInput = s.serInput := rfl
@[simp] theorem State.signal_serInputPos (s : State) (e : HwError) : (s.signal e).serInputPos = s.serInputPos := rfl
@[simp] theorem State.signal_digitCount (s : State) (e : HwError) : (s.signal e).digitCount = s.digitCount := rfl
@[simp] theorem State.signal_timeoutCounter (s : State) (e : HwError) : (s.signal e).timeoutCounter =
    s.timeoutCounter := rfl
@[simp] theorem State.signal_inputMode (s : State) (e : HwError) : (s.signal e).inputMode = s.inputMode := rfl
@[simp] theorem State.signal_refreshNeeded (s : State) (e : HwError) : (s.signal e).refreshNeeded =
    s.refreshNeeded := rfl
@[simp] theorem State.signal_out (s : State) (e : HwError) : (s.signal e).out = s.out := rfl
@[simp] theorem State.signal_trace (s : State) (e : HwError) : (s.signal e).trace = s.trace := rfl
@[simp] theorem State.signal_errorLog (s : State) (e : HwError) : (s.signal e).errorLog = s.errorLog ++ [e] := rfl
@[simp] theorem State.signal_result (s : State) (e : HwError) : (s.signal e).result = s.result := rfl
@[simp] theorem State.signal_commands (s : State) (e : HwError) : (s.signal e).commands = s.commands := rfl
@[simp] theorem State.signal_drawn (s : State) (e : HwError) : (s.signal e).drawn = s.drawn := rfl

@[simp] theorem State.returning_q (s : State) (r : Result) : (s.returning r).q = s.q := rfl
@[simp] theorem State.returning_writeIndex (s : State) (r : Result) : (s.returning r).writeIndex = s.writeIndex := rfl
@[simp] theorem State.returning_readIndex (s : State) (r : Result) : (s.returning r).readIndex = s.readIndex := rfl
@[simp] theorem State.returning_srValue (s : State) (r : Result) : (s.returning r).srValue = s.srValue := rfl
@[simp] theorem State.returning_srBitIndex (s : State) (r : Result) : (s.returning r).srBitIndex = s.srBitIndex := rfl
@[simp] theorem State.returning_srPhase (s : State) (r : Result) : (s.returning r).srPhase = s.srPhase := rfl
@[simp] theorem State.returning_currentGlyph (s : State) (r : Result) : (s.returning r).currentGlyph =
    s.currentGlyph := rfl
@[simp] theorem State.returning_displayValue (s : State) (r : Result) : (s.returning r).displayValue =
    s.displayValue := rfl
@[simp] theorem State.returning_displayDotmask (s : State) (r : Result) : (s.returning r).displayDotmask =
    s.displayDotmask := rfl
@[simp] theorem State.returning_serInput (s : State) (r : Result) : (s.returning r).serInput = s.serInput := rfl
@[simp] theorem State.returning_serInputPos (s : State) (r : Result) : (s.returning r).serInputPos =
    s.serInputPos := rfl
@[simp] theorem State.returning_digitCount (s : State) (r : Result) : (s.returning r).digitCount = s.digitCount := rfl
@[simp] theorem State.returning_timeoutCounter (s : State) (r : Result) : (s.returning r).timeoutCounter =
    s.timeoutCounter := rfl
@[simp] theorem State.returning_inputMode (s : State) (r : Result) : (s.returning r).inputMode = s.inputMode := rfl
@[simp] theorem State.returning_refreshNeeded (s : State) (r : Result) : (s.returning r).refreshNeeded =
    s.refreshNeeded := rfl
@[simp] theorem State.returning_out (s : State) (r : Result) : (s.returning r).out = s.out := rfl
@[simp] theorem State.returning_trace (s : State) (r : Result) : (s.returning r).trace = s.trace := rfl
@[simp] theorem State.returning_errorLog (s : State) (r : Result) : (s.returning r).errorLog = s.errorLog := rfl
@[simp] theorem State.returning_result (s : State) (r : Result) : (s.returning r).result = r := rfl
@[simp] theorem State.returning_commands (s : State) (r : Result) : (s.returning r).commands = s.commands := rfl
@[simp] theorem State.returning_drawn (s : State) (r : Result) : (s.returning r).drawn = s.drawn := rfl
@[simp] theorem done_eq (s : State) : done s = .next (s.returning .nothing) := rfl
@[simp] theorem answer_eq (r : Result) (s : State) : answer r s = .next (s.returning r) := rfl
@[simp] theorem settle_ok (s : State) : settle (.ok s) = .next (s.returning .nothing) := rfl
@[simp] theorem settle_error (r : Refusal) : settle (.error r) = .refused r := rfl

/-- A settled operation that answers a next state has completed, and only the recorded result differs. -/
theorem settle_eq_next (x : Except Refusal State) (t : State) (h : settle x = .next t) :
    ∃ u, x = .ok u ∧ t = u.returning .nothing := by
  cases x with
  | ok u => exact ⟨u, rfl, by simpa [eq_comm] using h⟩
  | error r => simp at h

end Sys2Proof.Machine
end

