-- ==== Sys2Proof/Laws/Blocks.lean ====
section
/-! SUPPORT. What each straight-line operation of the blocks leaves in each field: one lemma per field and operation,
each true by definition. -/

namespace Sys2Proof.Machine

@[simp] theorem bqReset_q (s : State) : (bqReset s).q = s.q := rfl
@[simp] theorem bqReset_writeIndex (s : State) : (bqReset s).writeIndex = 0 := rfl
@[simp] theorem bqReset_readIndex (s : State) : (bqReset s).readIndex = 0 := rfl
@[simp] theorem bqReset_srValue (s : State) : (bqReset s).srValue = s.srValue := rfl
@[simp] theorem bqReset_srBitIndex (s : State) : (bqReset s).srBitIndex = s.srBitIndex := rfl
@[simp] theorem bqReset_srPhase (s : State) : (bqReset s).srPhase = s.srPhase := rfl
@[simp] theorem bqReset_currentGlyph (s : State) : (bqReset s).currentGlyph = s.currentGlyph := rfl
@[simp] theorem bqReset_displayValue (s : State) : (bqReset s).displayValue = s.displayValue := rfl
@[simp] theorem bqReset_displayDotmask (s : State) : (bqReset s).displayDotmask = s.displayDotmask := rfl
@[simp] theorem bqReset_serInput (s : State) : (bqReset s).serInput = s.serInput := rfl
@[simp] theorem bqReset_serInputPos (s : State) : (bqReset s).serInputPos = s.serInputPos := rfl
@[simp] theorem bqReset_digitCount (s : State) : (bqReset s).digitCount = s.digitCount := rfl
@[simp] theorem bqReset_timeoutCounter (s : State) : (bqReset s).timeoutCounter = s.timeoutCounter := rfl
@[simp] theorem bqReset_inputMode (s : State) : (bqReset s).inputMode = s.inputMode := rfl
@[simp] theorem bqReset_refreshNeeded (s : State) : (bqReset s).refreshNeeded = s.refreshNeeded := rfl
@[simp] theorem bqReset_out (s : State) : (bqReset s).out = s.out := rfl
@[simp] theorem bqReset_trace (s : State) : (bqReset s).trace = s.trace := rfl
@[simp] theorem bqReset_errorLog (s : State) : (bqReset s).errorLog = s.errorLog := rfl
@[simp] theorem bqReset_result (s : State) : (bqReset s).result = s.result := rfl
@[simp] theorem bqReset_commands (s : State) : (bqReset s).commands = s.commands := rfl
@[simp] theorem bqReset_drawn (s : State) : (bqReset s).drawn = s.drawn := rfl

@[simp] theorem srLoad_q (v : Byte) (s : State) : (srLoad v s).q = s.q := rfl
@[simp] theorem srLoad_writeIndex (v : Byte) (s : State) : (srLoad v s).writeIndex = s.writeIndex := rfl
@[simp] theorem srLoad_readIndex (v : Byte) (s : State) : (srLoad v s).readIndex = s.readIndex := rfl
@[simp] theorem srLoad_srValue (v : Byte) (s : State) : (srLoad v s).srValue = v := rfl
@[simp] theorem srLoad_srBitIndex (v : Byte) (s : State) : (srLoad v s).srBitIndex = 0 := rfl
@[simp] theorem srLoad_srPhase (v : Byte) (s : State) : (srLoad v s).srPhase = .lowPending := rfl
@[simp] theorem srLoad_currentGlyph (v : Byte) (s : State) : (srLoad v s).currentGlyph = s.currentGlyph := rfl
@[simp] theorem srLoad_displayValue (v : Byte) (s : State) : (srLoad v s).displayValue = s.displayValue := rfl
@[simp] theorem srLoad_displayDotmask (v : Byte) (s : State) : (srLoad v s).displayDotmask = s.displayDotmask := rfl
@[simp] theorem srLoad_serInput (v : Byte) (s : State) : (srLoad v s).serInput = s.serInput := rfl
@[simp] theorem srLoad_serInputPos (v : Byte) (s : State) : (srLoad v s).serInputPos = s.serInputPos := rfl
@[simp] theorem srLoad_digitCount (v : Byte) (s : State) : (srLoad v s).digitCount = s.digitCount := rfl
@[simp] theorem srLoad_timeoutCounter (v : Byte) (s : State) : (srLoad v s).timeoutCounter = s.timeoutCounter := rfl
@[simp] theorem srLoad_inputMode (v : Byte) (s : State) : (srLoad v s).inputMode = s.inputMode := rfl
@[simp] theorem srLoad_refreshNeeded (v : Byte) (s : State) : (srLoad v s).refreshNeeded = s.refreshNeeded := rfl
@[simp] theorem srLoad_out (v : Byte) (s : State) : (srLoad v s).out = s.out := rfl
@[simp] theorem srLoad_trace (v : Byte) (s : State) : (srLoad v s).trace = s.trace := rfl
@[simp] theorem srLoad_errorLog (v : Byte) (s : State) : (srLoad v s).errorLog = s.errorLog := rfl
@[simp] theorem srLoad_result (v : Byte) (s : State) : (srLoad v s).result = s.result := rfl
@[simp] theorem srLoad_commands (v : Byte) (s : State) : (srLoad v s).commands = s.commands := rfl
@[simp] theorem srLoad_drawn (v : Byte) (s : State) : (srLoad v s).drawn = s.drawn := rfl

@[simp] theorem srLowPhase_q (s : State) : (srLowPhase s).q = s.q := rfl
@[simp] theorem srLowPhase_writeIndex (s : State) : (srLowPhase s).writeIndex = s.writeIndex := rfl
@[simp] theorem srLowPhase_readIndex (s : State) : (srLowPhase s).readIndex = s.readIndex := rfl
@[simp] theorem srLowPhase_srValue (s : State) : (srLowPhase s).srValue = s.srValue := rfl
@[simp] theorem srLowPhase_srBitIndex (s : State) : (srLowPhase s).srBitIndex = s.srBitIndex := rfl
@[simp] theorem srLowPhase_srPhase (s : State) : (srLowPhase s).srPhase = .highPending := rfl
@[simp] theorem srLowPhase_currentGlyph (s : State) : (srLowPhase s).currentGlyph = s.currentGlyph := rfl
@[simp] theorem srLowPhase_displayValue (s : State) : (srLowPhase s).displayValue = s.displayValue := rfl
@[simp] theorem srLowPhase_displayDotmask (s : State) : (srLowPhase s).displayDotmask = s.displayDotmask := rfl
@[simp] theorem srLowPhase_serInput (s : State) : (srLowPhase s).serInput = s.serInput := rfl
@[simp] theorem srLowPhase_serInputPos (s : State) : (srLowPhase s).serInputPos = s.serInputPos := rfl
@[simp] theorem srLowPhase_digitCount (s : State) : (srLowPhase s).digitCount = s.digitCount := rfl
@[simp] theorem srLowPhase_timeoutCounter (s : State) : (srLowPhase s).timeoutCounter = s.timeoutCounter := rfl
@[simp] theorem srLowPhase_inputMode (s : State) : (srLowPhase s).inputMode = s.inputMode := rfl
@[simp] theorem srLowPhase_refreshNeeded (s : State) : (srLowPhase s).refreshNeeded = s.refreshNeeded := rfl
@[simp] theorem srLowPhase_out (s : State) : (srLowPhase s).out =
    (s.out.drive .clk false).drive .ser (dataBit s.srValue s.srBitIndex.toNat) := rfl
@[simp] theorem srLowPhase_trace (s : State) : (srLowPhase s).trace =
    s.trace ++ [⟨.clk, false⟩] ++ [⟨.ser, dataBit s.srValue s.srBitIndex.toNat⟩] := rfl
@[simp] theorem srLowPhase_errorLog (s : State) : (srLowPhase s).errorLog = s.errorLog := rfl
@[simp] theorem srLowPhase_result (s : State) : (srLowPhase s).result = s.result := rfl
@[simp] theorem srLowPhase_commands (s : State) : (srLowPhase s).commands = s.commands := rfl
@[simp] theorem srLowPhase_drawn (s : State) : (srLowPhase s).drawn = s.drawn := rfl

@[simp] theorem srHighPhase_q (s : State) : (srHighPhase s).q = s.q := rfl
@[simp] theorem srHighPhase_writeIndex (s : State) : (srHighPhase s).writeIndex = s.writeIndex := rfl
@[simp] theorem srHighPhase_readIndex (s : State) : (srHighPhase s).readIndex = s.readIndex := rfl
@[simp] theorem srHighPhase_srValue (s : State) : (srHighPhase s).srValue = s.srValue := rfl
@[simp] theorem srHighPhase_srBitIndex (s : State) : (srHighPhase s).srBitIndex =
    fit 4 (s.srBitIndex.toNat + 1) := rfl
@[simp] theorem srHighPhase_srPhase (s : State) : (srHighPhase s).srPhase = .lowPending := rfl
@[simp] theorem srHighPhase_currentGlyph (s : State) : (srHighPhase s).currentGlyph = s.currentGlyph := rfl
@[simp] theorem srHighPhase_displayValue (s : State) : (srHighPhase s).displayValue = s.displayValue := rfl
@[simp] theorem srHighPhase_displayDotmask (s : State) : (srHighPhase s).displayDotmask = s.displayDotmask := rfl
@[simp] theorem srHighPhase_serInput (s : State) : (srHighPhase s).serInput = s.serInput := rfl
@[simp] theorem srHighPhase_serInputPos (s : State) : (srHighPhase s).serInputPos = s.serInputPos := rfl
@[simp] theorem srHighPhase_digitCount (s : State) : (srHighPhase s).digitCount = s.digitCount := rfl
@[simp] theorem srHighPhase_timeoutCounter (s : State) : (srHighPhase s).timeoutCounter = s.timeoutCounter := rfl
@[simp] theorem srHighPhase_inputMode (s : State) : (srHighPhase s).inputMode = s.inputMode := rfl
@[simp] theorem srHighPhase_refreshNeeded (s : State) : (srHighPhase s).refreshNeeded = s.refreshNeeded := rfl
@[simp] theorem srHighPhase_out (s : State) : (srHighPhase s).out = s.out.drive .clk true := rfl
@[simp] theorem srHighPhase_trace (s : State) : (srHighPhase s).trace = s.trace ++ [⟨.clk, true⟩] := rfl
@[simp] theorem srHighPhase_errorLog (s : State) : (srHighPhase s).errorLog = s.errorLog := rfl
@[simp] theorem srHighPhase_result (s : State) : (srHighPhase s).result = s.result := rfl
@[simp] theorem srHighPhase_commands (s : State) : (srHighPhase s).commands = s.commands := rfl
@[simp] theorem srHighPhase_drawn (s : State) : (srHighPhase s).drawn = s.drawn := rfl

@[simp] theorem frBegin_q (s : State) : (frBegin s).q = s.q := rfl
@[simp] theorem frBegin_writeIndex (s : State) : (frBegin s).writeIndex = s.writeIndex := rfl
@[simp] theorem frBegin_readIndex (s : State) : (frBegin s).readIndex = s.readIndex := rfl
@[simp] theorem frBegin_srValue (s : State) : (frBegin s).srValue = s.srValue := rfl
@[simp] theorem frBegin_srBitIndex (s : State) : (frBegin s).srBitIndex = s.srBitIndex := rfl
@[simp] theorem frBegin_srPhase (s : State) : (frBegin s).srPhase = s.srPhase := rfl
@[simp] theorem frBegin_currentGlyph (s : State) : (frBegin s).currentGlyph = s.currentGlyph := rfl
@[simp] theorem frBegin_displayValue (s : State) : (frBegin s).displayValue = 0 := rfl
@[simp] theorem frBegin_displayDotmask (s : State) : (frBegin s).displayDotmask = 0 := rfl
@[simp] theorem frBegin_serInput (s : State) : (frBegin s).serInput = 0 := rfl
@[simp] theorem frBegin_serInputPos (s : State) : (frBegin s).serInputPos = 0 := rfl
@[simp] theorem frBegin_digitCount (s : State) : (frBegin s).digitCount = 0 := rfl
@[simp] theorem frBegin_timeoutCounter (s : State) : (frBegin s).timeoutCounter =
    BitVec.ofNat 8 Config.maxTimeout := rfl
@[simp] theorem frBegin_inputMode (s : State) : (frBegin s).inputMode = s.inputMode := rfl
@[simp] theorem frBegin_refreshNeeded (s : State) : (frBegin s).refreshNeeded = s.refreshNeeded := rfl
@[simp] theorem frBegin_out (s : State) : (frBegin s).out = s.out := rfl
@[simp] theorem frBegin_trace (s : State) : (frBegin s).trace = s.trace := rfl
@[simp] theorem frBegin_errorLog (s : State) : (frBegin s).errorLog = s.errorLog := rfl
@[simp] theorem frBegin_result (s : State) : (frBegin s).result = s.result := rfl
@[simp] theorem frBegin_commands (s : State) : (frBegin s).commands = s.commands := rfl
@[simp] theorem frBegin_drawn (s : State) : (frBegin s).drawn = s.drawn := rfl

@[simp] theorem acceptDigit_q (g : Group) (s : State) : (acceptDigit g s).q = s.q := rfl
@[simp] theorem acceptDigit_writeIndex (g : Group) (s : State) : (acceptDigit g s).writeIndex = s.writeIndex := rfl
@[simp] theorem acceptDigit_readIndex (g : Group) (s : State) : (acceptDigit g s).readIndex = s.readIndex := rfl
@[simp] theorem acceptDigit_srValue (g : Group) (s : State) : (acceptDigit g s).srValue = s.srValue := rfl
@[simp] theorem acceptDigit_srBitIndex (g : Group) (s : State) : (acceptDigit g s).srBitIndex = s.srBitIndex := rfl
@[simp] theorem acceptDigit_srPhase (g : Group) (s : State) : (acceptDigit g s).srPhase = s.srPhase := rfl
@[simp] theorem acceptDigit_currentGlyph (g : Group) (s : State) : (acceptDigit g s).currentGlyph =
    s.currentGlyph := rfl
@[simp] theorem acceptDigit_displayValue (g : Group) (s : State) : (acceptDigit g s).displayValue =
    fit 16 (s.displayValue.toNat + groupVal g * 10 ^ s.digitCount.toNat) := rfl
@[simp] theorem acceptDigit_displayDotmask (g : Group) (s : State) : (acceptDigit g s).displayDotmask =
    if groupDot g then setMaskBit s.displayDotmask s.digitCount.toNat else s.displayDotmask := rfl
@[simp] theorem acceptDigit_serInput (g : Group) (s : State) : (acceptDigit g s).serInput = s.serInput := rfl
@[simp] theorem acceptDigit_serInputPos (g : Group) (s : State) : (acceptDigit g s).serInputPos = s.serInputPos := rfl
@[simp] theorem acceptDigit_digitCount (g : Group) (s : State) : (acceptDigit g s).digitCount =
    fit 4 (s.digitCount.toNat + 1) := rfl
@[simp] theorem acceptDigit_timeoutCounter (g : Group) (s : State) : (acceptDigit g s).timeoutCounter =
    s.timeoutCounter := rfl
@[simp] theorem acceptDigit_inputMode (g : Group) (s : State) : (acceptDigit g s).inputMode = s.inputMode := rfl
@[simp] theorem acceptDigit_refreshNeeded (g : Group) (s : State) : (acceptDigit g s).refreshNeeded =
    s.refreshNeeded := rfl
@[simp] theorem acceptDigit_out (g : Group) (s : State) : (acceptDigit g s).out = s.out := rfl
@[simp] theorem acceptDigit_trace (g : Group) (s : State) : (acceptDigit g s).trace = s.trace := rfl
@[simp] theorem acceptDigit_errorLog (g : Group) (s : State) : (acceptDigit g s).errorLog = s.errorLog := rfl
@[simp] theorem acceptDigit_result (g : Group) (s : State) : (acceptDigit g s).result = s.result := rfl
@[simp] theorem acceptDigit_commands (g : Group) (s : State) : (acceptDigit g s).commands = s.commands := rfl
@[simp] theorem acceptDigit_drawn (g : Group) (s : State) : (acceptDigit g s).drawn = s.drawn := rfl

@[simp] theorem clearGroup_q (s : State) : (clearGroup s).q = s.q := rfl
@[simp] theorem clearGroup_writeIndex (s : State) : (clearGroup s).writeIndex = s.writeIndex := rfl
@[simp] theorem clearGroup_readIndex (s : State) : (clearGroup s).readIndex = s.readIndex := rfl
@[simp] theorem clearGroup_srValue (s : State) : (clearGroup s).srValue = s.srValue := rfl
@[simp] theorem clearGroup_srBitIndex (s : State) : (clearGroup s).srBitIndex = s.srBitIndex := rfl
@[simp] theorem clearGroup_srPhase (s : State) : (clearGroup s).srPhase = s.srPhase := rfl
@[simp] theorem clearGroup_currentGlyph (s : State) : (clearGroup s).currentGlyph = s.currentGlyph := rfl
@[simp] theorem clearGroup_displayValue (s : State) : (clearGroup s).displayValue = s.displayValue := rfl
@[simp] theorem clearGroup_displayDotmask (s : State) : (clearGroup s).displayDotmask = s.displayDotmask := rfl
@[simp] theorem clearGroup_serInput (s : State) : (clearGroup s).serInput = 0 := rfl
@[simp] theorem clearGroup_serInputPos (s : State) : (clearGroup s).serInputPos = 0 := rfl
@[simp] theorem clearGroup_digitCount (s : State) : (clearGroup s).digitCount = s.digitCount := rfl
@[simp] theorem clearGroup_timeoutCounter (s : State) : (clearGroup s).timeoutCounter = s.timeoutCounter := rfl
@[simp] theorem clearGroup_inputMode (s : State) : (clearGroup s).inputMode = s.inputMode := rfl
@[simp] theorem clearGroup_refreshNeeded (s : State) : (clearGroup s).refreshNeeded = s.refreshNeeded := rfl
@[simp] theorem clearGroup_out (s : State) : (clearGroup s).out = s.out := rfl
@[simp] theorem clearGroup_trace (s : State) : (clearGroup s).trace = s.trace := rfl
@[simp] theorem clearGroup_errorLog (s : State) : (clearGroup s).errorLog = s.errorLog := rfl
@[simp] theorem clearGroup_result (s : State) : (clearGroup s).result = s.result := rfl
@[simp] theorem clearGroup_commands (s : State) : (clearGroup s).commands = s.commands := rfl
@[simp] theorem clearGroup_drawn (s : State) : (clearGroup s).drawn = s.drawn := rfl

@[simp] theorem takeBit_q (b : Bit) (s : State) : (takeBit b s).q = s.q := rfl
@[simp] theorem takeBit_writeIndex (b : Bit) (s : State) : (takeBit b s).writeIndex = s.writeIndex := rfl
@[simp] theorem takeBit_readIndex (b : Bit) (s : State) : (takeBit b s).readIndex = s.readIndex := rfl
@[simp] theorem takeBit_srValue (b : Bit) (s : State) : (takeBit b s).srValue = s.srValue := rfl
@[simp] theorem takeBit_srBitIndex (b : Bit) (s : State) : (takeBit b s).srBitIndex = s.srBitIndex := rfl
@[simp] theorem takeBit_srPhase (b : Bit) (s : State) : (takeBit b s).srPhase = s.srPhase := rfl
@[simp] theorem takeBit_currentGlyph (b : Bit) (s : State) : (takeBit b s).currentGlyph = s.currentGlyph := rfl
@[simp] theorem takeBit_displayValue (b : Bit) (s : State) : (takeBit b s).displayValue = s.displayValue := rfl
@[simp] theorem takeBit_displayDotmask (b : Bit) (s : State) : (takeBit b s).displayDotmask = s.displayDotmask := rfl
@[simp] theorem takeBit_serInput (b : Bit) (s : State) : (takeBit b s).serInput =
    fit 5 (placeBit s.serInput.toNat b s.serInputPos.toNat) := rfl
@[simp] theorem takeBit_serInputPos (b : Bit) (s : State) : (takeBit b s).serInputPos =
    fit 3 (s.serInputPos.toNat + 1) := rfl
@[simp] theorem takeBit_digitCount (b : Bit) (s : State) : (takeBit b s).digitCount = s.digitCount := rfl
@[simp] theorem takeBit_timeoutCounter (b : Bit) (s : State) : (takeBit b s).timeoutCounter = s.timeoutCounter := rfl
@[simp] theorem takeBit_inputMode (b : Bit) (s : State) : (takeBit b s).inputMode = s.inputMode := rfl
@[simp] theorem takeBit_refreshNeeded (b : Bit) (s : State) : (takeBit b s).refreshNeeded = s.refreshNeeded := rfl
@[simp] theorem takeBit_out (b : Bit) (s : State) : (takeBit b s).out = s.out := rfl
@[simp] theorem takeBit_trace (b : Bit) (s : State) : (takeBit b s).trace = s.trace := rfl
@[simp] theorem takeBit_errorLog (b : Bit) (s : State) : (takeBit b s).errorLog = s.errorLog := rfl
@[simp] theorem takeBit_result (b : Bit) (s : State) : (takeBit b s).result = s.result := rfl
@[simp] theorem takeBit_commands (b : Bit) (s : State) : (takeBit b s).commands = s.commands := rfl
@[simp] theorem takeBit_drawn (b : Bit) (s : State) : (takeBit b s).drawn = s.drawn := rfl

@[simp] theorem frEnd_q (s : State) : (frEnd s).q = s.q := rfl
@[simp] theorem frEnd_writeIndex (s : State) : (frEnd s).writeIndex = 0 := rfl
@[simp] theorem frEnd_readIndex (s : State) : (frEnd s).readIndex = 0 := rfl
@[simp] theorem frEnd_srValue (s : State) : (frEnd s).srValue = s.srValue := rfl
@[simp] theorem frEnd_srBitIndex (s : State) : (frEnd s).srBitIndex = s.srBitIndex := rfl
@[simp] theorem frEnd_srPhase (s : State) : (frEnd s).srPhase = s.srPhase := rfl
@[simp] theorem frEnd_currentGlyph (s : State) : (frEnd s).currentGlyph = s.currentGlyph := rfl
@[simp] theorem frEnd_displayValue (s : State) : (frEnd s).displayValue = s.displayValue := rfl
@[simp] theorem frEnd_displayDotmask (s : State) : (frEnd s).displayDotmask = s.displayDotmask := rfl
@[simp] theorem frEnd_serInput (s : State) : (frEnd s).serInput = s.serInput := rfl
@[simp] theorem frEnd_serInputPos (s : State) : (frEnd s).serInputPos = s.serInputPos := rfl
@[simp] theorem frEnd_digitCount (s : State) : (frEnd s).digitCount = s.digitCount := rfl
@[simp] theorem frEnd_timeoutCounter (s : State) : (frEnd s).timeoutCounter = 0 := rfl
@[simp] theorem frEnd_inputMode (s : State) : (frEnd s).inputMode = false := rfl
@[simp] theorem frEnd_refreshNeeded (s : State) : (frEnd s).refreshNeeded = s.refreshNeeded := rfl
@[simp] theorem frEnd_out (s : State) : (frEnd s).out = s.out := rfl
@[simp] theorem frEnd_trace (s : State) : (frEnd s).trace = s.trace := rfl
@[simp] theorem frEnd_errorLog (s : State) : (frEnd s).errorLog = s.errorLog := rfl
@[simp] theorem frEnd_result (s : State) : (frEnd s).result = s.result := rfl
@[simp] theorem frEnd_commands (s : State) : (frEnd s).commands = s.commands := rfl
@[simp] theorem frEnd_drawn (s : State) : (frEnd s).drawn = s.drawn := rfl

@[simp] theorem abortFrame_q (s : State) : (abortFrame s).q = s.q := rfl
@[simp] theorem abortFrame_writeIndex (s : State) : (abortFrame s).writeIndex = 0 := rfl
@[simp] theorem abortFrame_readIndex (s : State) : (abortFrame s).readIndex = 0 := rfl
@[simp] theorem abortFrame_srValue (s : State) : (abortFrame s).srValue = s.srValue := rfl
@[simp] theorem abortFrame_srBitIndex (s : State) : (abortFrame s).srBitIndex = s.srBitIndex := rfl
@[simp] theorem abortFrame_srPhase (s : State) : (abortFrame s).srPhase = s.srPhase := rfl
@[simp] theorem abortFrame_currentGlyph (s : State) : (abortFrame s).currentGlyph = s.currentGlyph := rfl
@[simp] theorem abortFrame_displayValue (s : State) : (abortFrame s).displayValue = s.displayValue := rfl
@[simp] theorem abortFrame_displayDotmask (s : State) : (abortFrame s).displayDotmask =
    setMaskBit s.displayDotmask 0 := rfl
@[simp] theorem abortFrame_serInput (s : State) : (abortFrame s).serInput = s.serInput := rfl
@[simp] theorem abortFrame_serInputPos (s : State) : (abortFrame s).serInputPos = s.serInputPos := rfl
@[simp] theorem abortFrame_digitCount (s : State) : (abortFrame s).digitCount = s.digitCount := rfl
@[simp] theorem abortFrame_timeoutCounter (s : State) : (abortFrame s).timeoutCounter = 0 := rfl
@[simp] theorem abortFrame_inputMode (s : State) : (abortFrame s).inputMode = false := rfl
@[simp] theorem abortFrame_refreshNeeded (s : State) : (abortFrame s).refreshNeeded = s.refreshNeeded := rfl
@[simp] theorem abortFrame_out (s : State) : (abortFrame s).out = s.out := rfl
@[simp] theorem abortFrame_trace (s : State) : (abortFrame s).trace = s.trace := rfl
@[simp] theorem abortFrame_errorLog (s : State) : (abortFrame s).errorLog = s.errorLog ++ [.framingTimeout] := rfl
@[simp] theorem abortFrame_result (s : State) : (abortFrame s).result = s.result := rfl
@[simp] theorem abortFrame_commands (s : State) : (abortFrame s).commands = s.commands := rfl
@[simp] theorem abortFrame_drawn (s : State) : (abortFrame s).drawn = s.drawn := rfl

@[simp] theorem irqTick_q (s : State) : (irqTick s).q = s.q := rfl
@[simp] theorem irqTick_writeIndex (s : State) : (irqTick s).writeIndex = s.writeIndex := rfl
@[simp] theorem irqTick_readIndex (s : State) : (irqTick s).readIndex = s.readIndex := rfl
@[simp] theorem irqTick_srValue (s : State) : (irqTick s).srValue = s.srValue := rfl
@[simp] theorem irqTick_srBitIndex (s : State) : (irqTick s).srBitIndex = s.srBitIndex := rfl
@[simp] theorem irqTick_srPhase (s : State) : (irqTick s).srPhase = s.srPhase := rfl
@[simp] theorem irqTick_currentGlyph (s : State) : (irqTick s).currentGlyph = s.currentGlyph := rfl
@[simp] theorem irqTick_displayValue (s : State) : (irqTick s).displayValue = s.displayValue := rfl
@[simp] theorem irqTick_displayDotmask (s : State) : (irqTick s).displayDotmask = s.displayDotmask := rfl
@[simp] theorem irqTick_serInput (s : State) : (irqTick s).serInput = s.serInput := rfl
@[simp] theorem irqTick_serInputPos (s : State) : (irqTick s).serInputPos = s.serInputPos := rfl
@[simp] theorem irqTick_digitCount (s : State) : (irqTick s).digitCount = s.digitCount := rfl
@[simp] theorem irqTick_timeoutCounter (s : State) : (irqTick s).timeoutCounter = s.timeoutCounter := rfl
@[simp] theorem irqTick_inputMode (s : State) : (irqTick s).inputMode = s.inputMode := rfl
@[simp] theorem irqTick_refreshNeeded (s : State) : (irqTick s).refreshNeeded = true := rfl
@[simp] theorem irqTick_out (s : State) : (irqTick s).out = s.out := rfl
@[simp] theorem irqTick_trace (s : State) : (irqTick s).trace = s.trace := rfl
@[simp] theorem irqTick_errorLog (s : State) : (irqTick s).errorLog = s.errorLog := rfl
@[simp] theorem irqTick_result (s : State) : (irqTick s).result = s.result := rfl
@[simp] theorem irqTick_commands (s : State) : (irqTick s).commands = s.commands := rfl
@[simp] theorem irqTick_drawn (s : State) : (irqTick s).drawn = s.drawn := rfl
end Sys2Proof.Machine
end

