-- ==== Sys2Proof/Laws/Encoding.lean ====
section
/-! SUPPORT. The command word taken apart (spec/30_encoding.md R103, R105): the opcode and the operand field of a word
put together from the two, and each operand field as a part of the operand field. -/

namespace Sys2Proof

/-- `cmd[39:32]` of `{opcode, operand}` is the opcode (R103). -/
@[simp] theorem opcodeOf_append (code : BitVec 8) (operand : BitVec 32) :
    opcodeOf (code ++ operand) = code := by
  apply BitVec.eq_of_getLsbD_eq
  intro i hi
  simp only [opcodeOf, BitVec.getLsbD_extractLsb', BitVec.getLsbD_append]
  simp [hi]

/-- `cmd[31:0]` of `{opcode, operand}` is the operand (R103). -/
@[simp] theorem operandOf_append (code : BitVec 8) (operand : BitVec 32) :
    operandOf (code ++ operand) = operand := by
  apply BitVec.eq_of_getLsbD_eq
  intro i hi
  simp only [operandOf, BitVec.getLsbD_extractLsb', BitVec.getLsbD_append]
  simp [hi]

/-- A field below bit 32 is a field of the operand (R105). -/
theorem extractLsb'_operand (w : CommandWord) (start width : Nat) (h : start + width ≤ 32) :
    w.extractLsb' start width = (operandOf w).extractLsb' start width := by
  apply BitVec.eq_of_getLsbD_eq
  intro i hi
  simp only [operandOf, BitVec.getLsbD_extractLsb']
  simp [hi, show start + i < 32 by omega]

/-- Format B is bit 0 of the operand (R105). -/
theorem fieldBit_eq (w : CommandWord) : fieldBit w = (operandOf w).getLsbD 0 := by
  simp [fieldBit, operandOf]

/-- Format V8 is a field of the operand (R105). -/
theorem fieldByte_eq (w : CommandWord) : fieldByte w = (operandOf w).extractLsb' 0 8 :=
  extractLsb'_operand w 0 8 (by omega)

/-- The glyph of format GD is a field of the operand (R105). -/
theorem fieldMatchGlyph_eq (w : CommandWord) : fieldMatchGlyph w = (operandOf w).extractLsb' 4 4 :=
  extractLsb'_operand w 4 4 (by omega)

/-- The low nibble is a field of the operand (R105). -/
theorem fieldLowNibble_eq (w : CommandWord) : fieldLowNibble w = (operandOf w).extractLsb' 0 4 :=
  extractLsb'_operand w 0 4 (by omega)

/-- The value of format VG is a field of the operand (R105). -/
theorem fieldValue_eq (w : CommandWord) : fieldValue w = (operandOf w).extractLsb' 4 28 :=
  extractLsb'_operand w 4 28 (by omega)

/-- Format G5 is a field of the operand (R105). -/
theorem fieldGroup_eq (w : CommandWord) : fieldGroup w = (operandOf w).extractLsb' 0 5 :=
  extractLsb'_operand w 0 5 (by omega)

/-- A word whose operand fits its format is taken (R105). -/
theorem withOperand_of_lt (w : CommandWord) (width : Nat) (i : Instr) (h : (operandOf w).toNat < 2 ^ width) :
    withOperand w width i = .ok i := if_pos h

/-- A word with a bit set above its format is rejected as reserved (R106). -/
theorem withOperand_of_le (w : CommandWord) (width : Nat) (i : Instr) (h : 2 ^ width ≤ (operandOf w).toNat) :
    withOperand w width i = .error (.operand (opcodeOf w)) := if_neg (by omega)

end Sys2Proof
end

