-- ==== Sys2Proof/Laws/Operands.lean ====
section
/-! SUPPORT. What the operand functions compute: numbers that fit their register, mask bits, decimal places. -/

namespace Sys2Proof.Machine

/-- A number that fits is what the register holds. -/
theorem toNat_fit (w n : Nat) (h : n < 2 ^ w) : (fit w n).toNat = n := by
  rw [fit, if_pos h]
  simp [Nat.mod_eq_of_lt h]

/-- A number that fits, as a bit vector. -/
theorem fit_of_lt (w n : Nat) (h : n < 2 ^ w) : fit w n = BitVec.ofNat w n := by
  rw [fit, if_pos h]

/-- The bit sent for a cursor in its range. -/
theorem dataBit_of_le (v : Byte) (i : Nat) (h : i ≤ 7) : dataBit v i = v.getLsbD (7 - i) := by
  rw [dataBit, if_pos h]

/-- Bit `p` of the number 2 to the power `k`, in a byte. -/
theorem getLsbD_ofNat_two_pow (k p : Nat) :
    (BitVec.ofNat 8 (2 ^ k)).getLsbD p = (decide (p < 8) && decide (p = k)) := by
  rw [BitVec.getLsbD_ofNat, Nat.testBit_two_pow]
  simp [eq_comm]

/-- Setting a mask bit sets that bit and no other. -/
theorem getLsbD_setMaskBit (m : Byte) (k p : Nat) (hp : p < 8) :
    (setMaskBit m k).getLsbD p = (m.getLsbD p || decide (p = k)) := by
  rw [setMaskBit, BitVec.getLsbD_or, getLsbD_ofNat_two_pow]
  simp [hp]

/-- Setting a bit that is above all the bits of a mask adds its weight. -/
theorem toNat_setMaskBit (m : Byte) (k : Nat) (hk : k < 8) (h : m.toNat < 2 ^ k) :
    (setMaskBit m k).toNat = m.toNat + 2 ^ k := by
  have hpow : 2 ^ k < 256 := Nat.pow_lt_pow_right (by omega) hk
  rw [setMaskBit, BitVec.toNat_or, BitVec.toNat_ofNat, Nat.mod_eq_of_lt hpow, Nat.or_comm]
  have := Nat.two_pow_add_eq_or_of_lt h 1
  rw [Nat.mul_one] at this
  omega

/-- A mask below `2^n` stays below it when one of its `n` low bits is set. -/
theorem setMaskBit_lt (m : Byte) (k n : Nat) (hk : k < n) (hn : n ≤ 8) (h : m.toNat < 2 ^ n) :
    (setMaskBit m k).toNat < 2 ^ n := by
  have hk' : 2 ^ k < 2 ^ n := Nat.pow_lt_pow_right (by omega) hk
  have hn' : 2 ^ n ≤ 2 ^ 8 := Nat.pow_le_pow_right (by omega) hn
  rw [setMaskBit, BitVec.toNat_or, BitVec.toNat_ofNat, Nat.mod_eq_of_lt (by omega)]
  exact Nat.or_lt_two_pow h hk'

/-- A digit put into a free decimal place stands in that place, and the lower places keep their digits. -/
theorem digitAt_add_pow (v d k p : Nat) (hv : v < 10 ^ k) (hd : d ≤ 9) (hp : p ≤ k) :
    digitAt (v + d * 10 ^ k) p = if p = k then d else digitAt v p := by
  unfold digitAt
  split
  · subst p
    rw [Nat.add_mul_div_right _ _ (by positivity), Nat.div_eq_of_lt hv]
    omega
  · obtain ⟨j, rfl⟩ : ∃ j, k = p + 1 + j := ⟨k - p - 1, by omega⟩
    have : v + d * 10 ^ (p + 1 + j) = v + 10 ^ p * (10 * (d * 10 ^ j)) := by ring
    rw [this, Nat.add_mul_div_left _ _ (by positivity)]
    omega

/-- The digit is always 0 to 9 (R100). -/
theorem digitAt_le (v p : Nat) : digitAt v p ≤ 9 := by
  unfold digitAt
  omega

/-- A bit placed at a free position adds its weight. -/
theorem placeBit_eq (acc : Nat) (bit : Bit) (pos : Nat) (h : acc < 2 ^ pos) :
    placeBit acc bit pos = acc + bit.toNat * 2 ^ pos := by
  have := Nat.two_pow_add_eq_or_of_lt h bit.toNat
  rw [placeBit, Nat.or_comm, Nat.shiftLeft_eq, Nat.mul_comm bit.toNat, ← this]
  omega

/-- The digit of a group is its four low bits. -/
theorem groupVal_lt (g : Group) : groupVal g < 16 := Nat.mod_lt _ (by omega)

end Sys2Proof.Machine
end

