-- ==== Sys2Proof/Laws/Queue.lean ====
section
/-! SUPPORT. The queue as a list of unread bits (spec/40_bit_queue_fifo.md R126): what each operation of the block does
to it. -/

namespace Sys2Proof.Machine

/-- The occupancy is a number 0 to 15 (R126). -/
theorem occupancy_lt (s : State) : s.occupancy < 16 := (s.writeIndex - s.readIndex).isLt

/-- There are as many unread bits as the occupancy says. -/
@[simp] theorem length_unread (s : State) : s.unread.length = s.occupancy := by simp [State.unread]

/-- The queue is empty exactly at occupancy 0 (R124, R126). -/
theorem queueEmpty_iff (s : State) : s.queueEmpty = true ↔ s.occupancy = 0 := by
  simp only [State.queueEmpty, State.occupancy, beq_iff_eq]
  constructor <;> intro h <;> bv_omega

/-- An empty queue has no unread bit. -/
theorem unread_of_queueEmpty (s : State) (h : s.queueEmpty = true) : s.unread = [] := by
  rw [← List.length_eq_zero_iff, length_unread]
  exact (queueEmpty_iff s).mp h

/-- The unread bits depend on the cells and the indices only. -/
theorem unread_congr (s t : State) (hq : t.q = s.q) (hw : t.writeIndex = s.writeIndex)
    (hr : t.readIndex = s.readIndex) : t.unread = s.unread := by
  simp only [State.unread, State.occupancy, State.readCell, hq, hw, hr]

/-- What `BQ.READ` does when the queue is empty: nothing. -/
theorem bqRead_of_empty (s : State) (h : s.queueEmpty = true) : bqRead s = (none, s) := by
  simp [bqRead, h]

/-- What `BQ.READ` does when the queue holds a bit. -/
theorem bqRead_of_nonempty (s : State) (h : s.queueEmpty = false) :
    bqRead s = (some (s.readCell s.readIndex), { s with readIndex := s.readIndex + 1 }) := by
  simp [bqRead, h]

/-- Reading takes the first unread bit. -/
theorem unread_of_nonempty (s : State) (h : s.queueEmpty = false) :
    s.unread = s.readCell s.readIndex :: State.unread { s with readIndex := s.readIndex + 1 } := by
  have hocc : s.occupancy = State.occupancy { s with readIndex := s.readIndex + 1 } + 1 := by
    have : s.writeIndex ≠ s.readIndex := by simpa [State.queueEmpty] using h
    simp only [State.occupancy]
    bv_omega
  have hnext : ∀ j : Nat, s.readIndex + BitVec.ofNat 4 (j + 1) = s.readIndex + 1 + BitVec.ofNat 4 j := by
    intro j
    bv_omega
  rw [State.unread, hocc, List.range_succ_eq_map, List.map_cons, List.map_map]
  simp only [Function.comp_def, Nat.succ_eq_add_one, hnext, State.unread, State.readCell]
  simp

/-- `BQ.READ` returns the first unread bit, if there is one, and leaves the others (R76, R123). -/
theorem bqRead_unread (s : State) :
    (bqRead s).1 = s.unread.head? ∧ (bqRead s).2.unread = s.unread.tail := by
  cases h : s.queueEmpty with
  | true => simp [bqRead_of_empty s h, unread_of_queueEmpty s h]
  | false => rw [bqRead_of_nonempty s h, unread_of_nonempty s h]; simp

/-- `BQ.READ` changes at most the read index. -/
theorem bqRead_frame (s : State) : (bqRead s).2 = { s with readIndex := (bqRead s).2.readIndex } := by
  unfold bqRead
  split <;> rfl

/-- All that `BQ.WRITE` does, by field (R122, R254). -/
theorem bqWrite_eq (bit : Bit) (s : State) :
    bqWrite bit s = { s with
      q := s.q.set s.writeIndex.toNat bit s.writeIndex.isLt
      writeIndex := s.writeIndex + 1
      errorLog := s.errorLog ++ if s.occupancy = 15 then [.queueOverflow] else [] } := by
  unfold bqWrite
  by_cases h : s.occupancy = 15 <;> simp [h, State.storeCell, State.signal]

/-- `BQ.WRITE` changes the occupancy to its successor mod 16 (R126). -/
theorem bqWrite_occupancy (bit : Bit) (s : State) :
    (bqWrite bit s).occupancy = (s.occupancy + 1) % 16 := by
  rw [bqWrite_eq]
  simp only [State.occupancy]
  bv_omega

/-- `BQ.WRITE` appends the bit to the unread bits; at occupancy 15 it leaves none (R76, R127). -/
theorem bqWrite_unread (bit : Bit) (s : State) :
    (bqWrite bit s).unread = if s.occupancy = 15 then [] else s.unread ++ [bit] := by
  have hocc := bqWrite_occupancy bit s
  have hlt := occupancy_lt s
  split
  next h =>
    rw [← List.length_eq_zero_iff, length_unread, hocc, h]
  next h =>
    apply List.ext_getElem
    · simp only [length_unread, List.length_append, List.length_singleton]
      omega
    · intro j hj hj'
      simp only [length_unread] at hj
      have hread : (bqWrite bit s).readIndex = s.readIndex := by rw [bqWrite_eq]
      have hq : (bqWrite bit s).q = s.q.set s.writeIndex.toNat bit s.writeIndex.isLt := by rw [bqWrite_eq]
      rcases Nat.lt_or_ge j s.occupancy with hlo | hhi
      · have hne : (s.readIndex + BitVec.ofNat 4 j).toNat ≠ s.writeIndex.toNat := by
          simp only [State.occupancy] at hlo
          bv_omega
        rw [List.getElem_append_left (by simpa using hlo)]
        simp only [State.unread, List.getElem_map, List.getElem_range, State.readCell, hread, hq]
        exact Vector.getElem_set_ne _ _ hne.symm
      · have hj2 : j = s.occupancy := by omega
        have heq : s.readIndex + BitVec.ofNat 4 j = s.writeIndex := by
          simp only [State.occupancy] at hj2
          bv_omega
        rw [List.getElem_append_right (by simpa using hhi)]
        simp only [State.unread, List.getElem_map, List.getElem_range, State.readCell, hread, hq, heq]
        simp

/-- `BQ.RESET` leaves no bit unread (R121). -/
@[simp] theorem bqReset_unread (s : State) : (bqReset s).unread = [] :=
  unread_of_queueEmpty _ rfl

end Sys2Proof.Machine
end

