-- ==== Sys2Proof/Laws/Framer.lean ====
section
/-! SUPPORT. The framer (spec/44_serial_input_framer.md): what `FR.BIT`, the drain loop and the watchdog can do, said
once. -/

namespace Sys2Proof.Machine

/-- What `FR.PUSH` can do: refuse, discard the group, or accept the digit (R204). -/
theorem frPush_cases (g : Group) (s : State) :
    (Config.N ≤ s.digitCount.toNat ∧ frPush g s = .error .pushBeyondFrame) ∨
    (s.digitCount.toNat < Config.N ∧ 10 ≤ groupVal g ∧ frPush g s = .ok (s.signal .invalidDigitValue)) ∨
    (s.digitCount.toNat < Config.N ∧ groupVal g < 10 ∧ frPush g s = .ok (acceptDigit g s)) := by
  unfold frPush
  by_cases h : Config.N ≤ s.digitCount.toNat
  · simp [h]
  · by_cases hv : 10 ≤ groupVal g
    · simp [h, hv]
      omega
    · simp [h, hv]
      omega

/-- Below the fifth bit `FR.BIT` only takes the bit (R203). -/
theorem frBit_of_lt (b : Bit) (s : State) (h : s.serInputPos.toNat < 4) : frBit b s = .ok (takeBit b s) := by
  have hpos : (takeBit b s).serInputPos.toNat ≠ Config.groupBits := by
    rw [takeBit_serInputPos, toNat_fit _ _ (by omega), Config.groupBits]
    omega
  simp only [frBit]
  rw [if_neg hpos]

/-- The fifth bit flushes the group (R203). -/
theorem frBit_of_eq (b : Bit) (s : State) (h : s.serInputPos.toNat = 4) :
    frBit b s = (frPush (takeBit b s).serInput (takeBit b s)).map clearGroup := by
  have hpos : (takeBit b s).serInputPos.toNat = Config.groupBits := by
    rw [takeBit_serInputPos, toNat_fit _ _ (by omega), Config.groupBits, h]
  simp only [frBit]
  rw [if_pos hpos]
  cases frPush (takeBit b s).serInput (takeBit b s) <;> rfl

/-- `FR.BIT` changes at most the framer's accumulator and the number being composed. -/
theorem frBit_frame (b : Bit) (s t : State) (h : frBit b s = .ok t) :
    t = { s with
      serInput := t.serInput, serInputPos := t.serInputPos, digitCount := t.digitCount,
      displayValue := t.displayValue, displayDotmask := t.displayDotmask, errorLog := t.errorLog } := by
  simp only [frBit] at h
  split at h
  · rcases frPush_cases (takeBit b s).serInput (takeBit b s) with ⟨-, hp⟩ | ⟨-, -, hp⟩ | ⟨-, -, hp⟩ <;>
      rw [hp] at h <;> cases h <;> rfl
  · cases h
    rfl

/-- Taking a bit keeps the accumulator below its position. -/
theorem takeBit_input_lt (b : Bit) (s : State) (hpos : s.serInputPos.toNat ≤ 4)
    (hin : s.serInput.toNat < 2 ^ s.serInputPos.toNat) :
    (takeBit b s).serInput.toNat = s.serInput.toNat + b.toNat * 2 ^ s.serInputPos.toNat ∧
      (takeBit b s).serInput.toNat < 2 ^ (s.serInputPos.toNat + 1) := by
  have hb : b.toNat ≤ 1 := Bool.toNat_le b
  have hle : b.toNat * 2 ^ s.serInputPos.toNat ≤ 1 * 2 ^ s.serInputPos.toNat := Nat.mul_le_mul_right _ hb
  have hpow : 2 ^ (s.serInputPos.toNat + 1) ≤ 2 ^ 5 := Nat.pow_le_pow_right (by omega) (by omega)
  have hsucc : 2 ^ (s.serInputPos.toNat + 1) = 2 * 2 ^ s.serInputPos.toNat := by rw [Nat.pow_succ]; omega
  rw [takeBit_serInput, placeBit_eq _ _ _ hin, toNat_fit _ _ (by omega)]
  exact ⟨rfl, by omega⟩

/-- What accepting a digit does to the numbers in range (R102, R204, R209). -/
theorem acceptDigit_numbers (g : Group) (s : State) (hd : s.digitCount.toNat < Config.N)
    (hv : s.displayValue.toNat < 10 ^ s.digitCount.toNat) (hg : groupVal g < 10) :
    (acceptDigit g s).displayValue.toNat = s.displayValue.toNat + groupVal g * 10 ^ s.digitCount.toNat ∧
    (acceptDigit g s).displayValue.toNat < 10 ^ (s.digitCount.toNat + 1) ∧
    (acceptDigit g s).digitCount.toNat = s.digitCount.toNat + 1 := by
  have hN : s.digitCount.toNat < 4 := hd
  have hmul : groupVal g * 10 ^ s.digitCount.toNat ≤ 9 * 10 ^ s.digitCount.toNat :=
    Nat.mul_le_mul_right _ (by omega)
  have hpow : 10 ^ s.digitCount.toNat ≤ 10 ^ 3 := Nat.pow_le_pow_right (by omega) (by omega)
  have hsucc : 10 ^ (s.digitCount.toNat + 1) = 10 * 10 ^ s.digitCount.toNat := by rw [Nat.pow_succ]; omega
  rw [acceptDigit_displayValue, acceptDigit_digitCount, toNat_fit _ _ (by omega), toNat_fit _ _ (by omega)]
  exact ⟨rfl, by omega, rfl⟩

/-- Accepting a digit sets the dot bit of its position exactly when its flag is set, and no other bit (R66, R204). -/
theorem getLsbD_acceptDigit (g : Group) (s : State) (p : Nat) (hp : p < 8) :
    (acceptDigit g s).displayDotmask.getLsbD p =
      (s.displayDotmask.getLsbD p || (decide (p = s.digitCount.toNat) && groupDot g)) := by
  rw [acceptDigit_displayDotmask]
  by_cases hg : groupDot g = true
  · rw [if_pos hg, getLsbD_setMaskBit _ _ _ hp, hg, Bool.and_true]
  · rw [if_neg hg, Bool.eq_false_iff.mpr hg, Bool.and_false, Bool.or_false]

/-- Every power of ten up to the number of digits is at most ten to the `N`. -/
theorem pow10_le (k : Nat) (h : k ≤ Config.N) : 10 ^ k ≤ 10 ^ Config.N := Nat.pow_le_pow_right (by omega) h

/-- Taking a bit below the fifth keeps the register ranges. -/
theorem takeBit_rangeInv (b : Bit) (s : State) (hs : RangeInv s) (h : s.serInputPos.toNat < 4) :
    RangeInv (takeBit b s) := by
  have hin := (takeBit_input_lt b s hs.pos_le hs.input_lt).2
  have hpos : (takeBit b s).serInputPos.toNat = s.serInputPos.toNat + 1 := by
    rw [takeBit_serInputPos, toNat_fit _ _ (by omega)]
  exact { hs with pos_le := by omega, input_lt := by rw [hpos]; exact hin }

/-- Accepting a digit keeps the register ranges. -/
theorem acceptDigit_rangeInv (g : Group) (s : State) (hs : RangeInv s) (hd : s.digitCount.toNat < Config.N)
    (hg : groupVal g < 10) : RangeInv (acceptDigit g s) := by
  obtain ⟨-, hlt, hcount⟩ := acceptDigit_numbers g s hd hs.value_lt hg
  have hpow := pow10_le (s.digitCount.toNat + 1) hd
  refine { hs with digits_le := ?_, value_le := ?_, value_lt := ?_, dots_lt := ?_ }
  · omega
  · omega
  · rw [hcount]
    exact hlt
  · rw [acceptDigit_displayDotmask]
    split
    · exact setMaskBit_lt _ _ _ hd (by decide) hs.dots_lt
    · exact hs.dots_lt

/-- `FR.PUSH` keeps the register ranges. -/
theorem frPush_rangeInv (g : Group) (s t : State) (hs : RangeInv s) (h : frPush g s = .ok t) : RangeInv t := by
  rcases frPush_cases g s with ⟨-, hp⟩ | ⟨-, -, hp⟩ | ⟨hd, hg, hp⟩ <;> rw [hp] at h <;> cases h
  · exact { hs with }
  · exact acceptDigit_rangeInv g s hs hd hg

/-- Clearing the group keeps the register ranges. -/
theorem clearGroup_rangeInv (s : State) (hs : RangeInv s) : RangeInv (clearGroup s) :=
  { hs with pos_le := by simp, input_lt := by simp }

/-- `FR.PUSH` does not look at the accumulator. -/
theorem frPush_clear (g : Group) (s : State) :
    (frPush g s).map clearGroup = frPush g (clearGroup s) := by
  rcases frPush_cases g s with ⟨h1, hp⟩ | ⟨h1, h2, hp⟩ | ⟨h1, h2, hp⟩ <;>
    rcases frPush_cases g (clearGroup s) with ⟨k1, kp⟩ | ⟨k1, k2, kp⟩ | ⟨k1, k2, kp⟩ <;>
    simp only [clearGroup_digitCount] at k1 <;> first | omega | (rw [hp, kp]; rfl)

/-- The flush of `FR.BIT`, as a push into the framer with its accumulator cleared (R203). -/
theorem frBit_flush (b : Bit) (s : State) (h : s.serInputPos.toNat = 4) :
    frBit b s = frPush (takeBit b s).serInput (clearGroup s) := by
  rw [frBit_of_eq b s h, frPush_clear]
  rfl

/-- `FR.BIT` keeps the register ranges. -/
theorem frBit_rangeInv (b : Bit) (s t : State) (hs : RangeInv s) (h : frBit b s = .ok t) : RangeInv t := by
  rcases Nat.lt_or_eq_of_le hs.pos_le with hlt | heq
  · rw [frBit_of_lt b s hlt] at h
    cases h
    exact takeBit_rangeInv b s hs hlt
  · rw [frBit_flush b s heq] at h
    exact frPush_rangeInv _ _ _ (clearGroup_rangeInv s hs) h

/-- `FR.BIT` completes while the frame has room (R204, U5). -/
theorem frBit_completes (b : Bit) (s : State) (hpos : s.serInputPos.toNat ≤ 4)
    (hd : s.digitCount.toNat < Config.N) : ∃ t, frBit b s = .ok t := by
  rcases Nat.lt_or_eq_of_le hpos with hlt | heq
  · exact ⟨_, frBit_of_lt b s hlt⟩
  · rw [frBit_flush b s heq]
    rcases frPush_cases (takeBit b s).serInput (clearGroup s) with ⟨h, -⟩ | ⟨-, -, h⟩ | ⟨-, -, h⟩
    · rw [clearGroup_digitCount] at h
      omega
    · exact ⟨_, h⟩
    · exact ⟨_, h⟩

/-- The drain loop, packaged once: what holds before it and is kept by taking a bit out of the queue and by `FR.BIT`
holds when it ends, before the `FR.END` of a completed frame (R207). -/
theorem drain_induction (P : State → Prop)
    (hread : ∀ s, P s → P { s with readIndex := s.readIndex + 1 })
    (hbit : ∀ b s t, P s → frBit b s = .ok t → P t) :
    ∀ k s e t, P s → drain k s = .ok (e, t) →
      (e = .emptied ∧ P t) ∨ (e = .completed ∧ ∃ u, P u ∧ u.digitCount.toNat = Config.N ∧ t = frEnd u) := by
  intro k
  induction k with
  | zero =>
    intro s e t hs h
    cases h
    exact .inl ⟨rfl, hs⟩
  | succ k ih =>
    intro s e t hs h
    cases hq : s.queueEmpty with
    | true =>
      simp only [drain, bqRead_of_empty s hq] at h
      cases h
      exact .inl ⟨rfl, hs⟩
    | false =>
      simp only [drain, bqRead_of_nonempty s hq] at h
      split at h
      · cases h
      · rename_i u hu
        have hPu := hbit _ _ _ (hread s hs) hu
        split at h
        · rename_i hN
          cases h
          exact .inr ⟨rfl, u, hPu, hN, rfl⟩
        · exact ih u e t hPu h

/-- The drain loop takes the unread bits one after another (R207). -/
theorem drain_cons (k : Nat) (s : State) (b : Bit) (rest : List Bit) (h : s.unread = b :: rest) :
    State.unread { s with readIndex := s.readIndex + 1 } = rest ∧
    drain (k + 1) s =
      match frBit b { s with readIndex := s.readIndex + 1 } with
      | .error r => .error r
      | .ok u => if u.digitCount.toNat = Config.N then .ok (.completed, frEnd u) else drain k u := by
  have hq : s.queueEmpty = false := by
    cases hq : s.queueEmpty with
    | false => rfl
    | true => rw [unread_of_queueEmpty s hq] at h; cases h
  have hu := unread_of_nonempty s hq
  rw [h] at hu
  injection hu with h1 h2
  subst h1
  refine ⟨h2.symm, ?_⟩
  simp only [drain, bqRead_of_nonempty s hq]
  all_goals rfl

/-- The drain loop of an empty queue does nothing (R207). -/
theorem drain_nil (k : Nat) (s : State) (h : s.unread = []) : drain k s = .ok (.emptied, s) := by
  have hq : s.queueEmpty = true := by
    rw [queueEmpty_iff, ← length_unread, h]
    rfl
  cases k with
  | zero => rfl
  | succ k => simp only [drain, bqRead_of_empty s hq]

/-- The drain loop completes while the frame has room, and with enough turns it leaves either a completed frame or an
empty queue and a frame with room (R207). -/
theorem drain_completes (k : Nat) (s : State) (hs : RangeInv s) (hd : s.digitCount.toNat < Config.N)
    (hk : s.occupancy ≤ k) :
    ∃ e t, drain k s = .ok (e, t) ∧
      (e = .emptied → t.queueEmpty = true ∧ t.digitCount.toNat < Config.N) := by
  induction k generalizing s with
  | zero =>
    refine ⟨.emptied, s, rfl, fun _ => ⟨(queueEmpty_iff s).mpr (by omega), hd⟩⟩
  | succ k ih =>
    cases hq : s.unread with
    | nil =>
      refine ⟨.emptied, s, drain_nil _ s hq, fun _ => ⟨?_, hd⟩⟩
      rw [queueEmpty_iff, ← length_unread, hq]
      rfl
    | cons b rest =>
      obtain ⟨hrest, hdrain⟩ := drain_cons k s b rest hq
      have hs' : RangeInv { s with readIndex := s.readIndex + 1 } := { hs with }
      obtain ⟨u, hu⟩ := frBit_completes b { s with readIndex := s.readIndex + 1 } hs.pos_le hd
      have hru := frBit_rangeInv _ _ _ hs' hu
      simp only [hdrain, hu]
      split
      · exact ⟨_, _, rfl, fun h => by cases h⟩
      · rename_i hN
        have hocc : u.occupancy = rest.length := by
          have hframe := frBit_frame _ _ _ hu
          rw [← hrest, length_unread]
          rw [hframe]
          rfl
        have hlen : s.occupancy = rest.length + 1 := by rw [← length_unread, hq]; rfl
        exact ih u hru (by have := hru.digits_le; omega) (by omega)

/-- What the watchdog can do (R206). -/
theorem frTmo_cases (s : State) :
    (s.timeoutCounter.toNat = 0 ∧ frTmo s = .error .watchdogNotLoaded) ∨
    (s.timeoutCounter.toNat = 1 ∧ frTmo s = .ok (abortFrame { s with timeoutCounter := 0 })) ∨
    (2 ≤ s.timeoutCounter.toNat ∧ frTmo s = .ok { s with timeoutCounter := s.timeoutCounter - 1 }) := by
  have h0 : s.timeoutCounter = 0 ↔ s.timeoutCounter.toNat = 0 := by constructor <;> intro h <;> bv_omega
  by_cases hz : s.timeoutCounter.toNat = 0
  · exact .inl ⟨hz, by simp only [frTmo]; rw [if_pos (h0.mpr hz)]⟩
  · have hne : s.timeoutCounter ≠ 0 := fun h => hz (h0.mp h)
    by_cases h1 : s.timeoutCounter.toNat = 1
    · have hs : s.timeoutCounter - 1 = 0 := by bv_omega
      exact .inr (.inl ⟨h1, by simp only [frTmo]; rw [if_neg hne, hs, if_pos rfl]⟩)
    · have hs : s.timeoutCounter - 1 ≠ 0 := by bv_omega
      exact .inr (.inr ⟨by omega, by simp only [frTmo]; rw [if_neg hne, if_neg hs]⟩)

/-- What `FR.ITER` can do when it completes (R207): the drain ends with a completed frame, or with an empty queue and
then at most one watchdog tick. -/
theorem frIter_cases (s t : State) (h : frIter s = .ok t) :
    s.inputMode = true ∧
    ((drain Config.qcap (if s.timeoutCounter = 0 then frBegin s else s) = .ok (.completed, t)) ∨
     ∃ u, drain Config.qcap (if s.timeoutCounter = 0 then frBegin s else s) = .ok (.emptied, u) ∧
       ((u.refreshNeeded = false ∧ t = u) ∨
        (u.refreshNeeded = true ∧ frTmo { u with refreshNeeded := false } = .ok t))) := by
  unfold frIter at h
  split at h
  · rename_i hm
    refine ⟨hm, ?_⟩
    split at h
    · cases h
    · rename_i u hd
      cases h
      exact .inl hd
    · rename_i u hd
      refine .inr ⟨u, hd, ?_⟩
      unfold bookkeeping at h
      split at h
      · exact .inr ⟨by assumption, h⟩
      · cases h
        exact .inl ⟨by simp_all, rfl⟩
  · cases h

end Sys2Proof.Machine
end

