-- ==== Sys2Proof/Laws/Sender.lean ====
section
/-! SUPPORT. The sender and the glyph masks: the cases of `SR.STEP` (spec/41_shift_register_bit_banger.md R142) and the
bits of a mask (42_glyph_lut_decoder.md R166). -/

namespace Sys2Proof.Machine

/-- The sender is finished exactly at bit index 8 (R39). -/
theorem srFinished_iff (s : State) : s.srFinished = true ↔ s.srBitIndex.toNat = 8 := by
  simp only [State.srFinished, beq_iff_eq]
  constructor <;> intro h <;> bv_omega

/-- `SR.STEP` of a finished sender is a no-op (R145). -/
theorem srStep_of_finished (s : State) (h : s.srBitIndex.toNat = 8) : srStep s = (.finished, s) := by
  rw [srStep, if_pos ((srFinished_iff s).mpr h)]

/-- `SR.STEP` in its low-clock phase (R142). -/
theorem srStep_of_low (s : State) (h : s.srBitIndex.toNat ≠ 8) (hp : s.srPhase = .lowPending) :
    srStep s = (if s.srBitIndex.toNat = 0 then .beginning else .middle, srLowPhase s) := by
  have hz : s.srBitIndex = 0 ↔ s.srBitIndex.toNat = 0 := by constructor <;> intro h <;> bv_omega
  rw [srStep, if_neg (by rwa [srFinished_iff])]
  simp only [hp, hz]

/-- `SR.STEP` in its high-clock phase (R142): `Last` exactly when the eighth bit has been clocked. -/
theorem srStep_of_high (s : State) (h : s.srBitIndex.toNat < 8) (hp : s.srPhase = .highPending) :
    srStep s = (if s.srBitIndex.toNat = 7 then .last else .middle, srHighPhase s) := by
  have hf : (srHighPhase s).srFinished = true ↔ s.srBitIndex.toNat = 7 := by
    rw [srFinished_iff, srHighPhase_srBitIndex, toNat_fit _ _ (by omega)]
    omega
  rw [srStep, if_neg (by rw [srFinished_iff]; omega)]
  simp [hp, hf]

/-- Bit `p` of the mask of the positions below `n` (R166). -/
theorem getLsbD_glMaskBelow (value glyph n p : Nat) (hp : p < 8) :
    (glMaskBelow value glyph n).getLsbD p = (decide (p < n) && glMatch glyph (digitAt value p)) := by
  induction n with
  | zero => simp [glMaskBelow]
  | succ n ih =>
    rw [glMaskBelow]
    rcases Nat.lt_trichotomy p n with h | h | h
    · have hne : p ≠ n := by omega
      have hlt : p < n + 1 := by omega
      by_cases hm : glMatch glyph (digitAt value n) = true <;>
        simp only [hm, if_true, if_false, Bool.false_eq_true, getLsbD_setMaskBit _ _ _ hp, ih] <;>
        simp [hne, h, hlt]
    · subst h
      cases hm : glMatch glyph (digitAt value p) <;>
        simp only [if_true, if_false, Bool.false_eq_true, getLsbD_setMaskBit _ _ _ hp, ih] <;> simp
    · have hne : p ≠ n := by omega
      have hnlt : ¬p < n := by omega
      have hnlt' : ¬p < n + 1 := by omega
      by_cases hm : glMatch glyph (digitAt value n) = true <;>
        simp only [hm, if_true, if_false, Bool.false_eq_true, getLsbD_setMaskBit _ _ _ hp, ih] <;>
        simp [hne, hnlt, hnlt']

end Sys2Proof.Machine
end

