-- ==== Sys2Proof/Laws/Sequencer.lean ====
section
/-! SUPPORT. The sequencer (spec/43_display_multiplex_sequencer.md): what `MX.NEXT` and `MX.STEP` do, by field. -/

namespace Sys2Proof.Machine

/-- The glyph cursor advances below the blank marker (R181). -/
theorem advanceGlyph_of_lt (s : State) (h : s.currentGlyph.toNat < 14) :
    advanceGlyph s = { s with currentGlyph := s.currentGlyph + 1 } := by
  have hfit : fit 4 (s.currentGlyph.toNat + 1) = s.currentGlyph + 1 := by
    rw [fit_of_lt _ _ (by omega)]
    bv_omega
  have hne : (s.currentGlyph + 1).toNat ≠ Config.blank := by
    simp only [Config.blank]
    bv_omega
  simp only [advanceGlyph, hfit]
  rw [if_neg hne]

/-- The glyph cursor wraps at the blank marker with one pulse of the reset line (R181). -/
theorem advanceGlyph_of_eq (s : State) (h : s.currentGlyph.toNat = 14) :
    advanceGlyph s = { s.pinPulse .rst with currentGlyph := 0 } := by
  have hfit : (fit 4 (s.currentGlyph.toNat + 1)).toNat = Config.blank := by
    rw [toNat_fit _ _ (by omega), h, Config.blank]
  simp only [advanceGlyph]
  rw [if_pos hfit]
  rfl

/-- All that `MX.NEXT` does from a glyph index 0 to 14 (R94, R181). -/
theorem mxNext_eq (s : State) (h : s.currentGlyph.toNat ≤ 14) :
    mxNext s = { s with
      currentGlyph := (advanceGlyph s).currentGlyph
      srValue := glMask s.displayValue.toNat (advanceGlyph s).currentGlyph.toNat
      srBitIndex := 0
      srPhase := .lowPending
      out := { s.out with
        cnt := some true, rst := if s.currentGlyph.toNat = 14 then some false else s.out.rst }
      trace := s.trace ++ openingEvents s.currentGlyph.toNat } ∧
    (advanceGlyph s).currentGlyph.toNat = (s.currentGlyph.toNat + 1) % 15 := by
  rcases Nat.lt_or_eq_of_le h with h' | h'
  · constructor
    · simp [mxNext, advanceGlyph_of_lt s h', srLoad, State.pinWrite, Pins.drive, openingEvents,
        Nat.ne_of_lt h']
    · rw [advanceGlyph_of_lt s h', Nat.mod_eq_of_lt (by omega)]
      show (s.currentGlyph + 1).toNat = _
      bv_omega
  · constructor
    · simp [mxNext, advanceGlyph_of_eq s h', srLoad, State.pinWrite, State.pinPulse, Pins.drive,
        openingEvents, h']
    · rw [advanceGlyph_of_eq s h', h']
      rfl

/-- All that `MX.STEP` does when the sender is finished (R182). -/
theorem mxStep_of_finished (s : State) (h : s.srBitIndex.toNat = 8) :
    mxStep s = if s.refreshNeeded = true then mxNext { s.pinWrite .cnt false with refreshNeeded := false }
      else s.pinWrite .cnt false := by
  simp [mxStep, srStep_of_finished s h, mxFinished]

/-- All that `MX.STEP` does while a byte is being sent (R182, R190). -/
theorem mxStep_of_sending (s : State) (h : s.srBitIndex.toNat < 8) : mxStep s = (srStep s).2 := by
  cases hp : s.srPhase with
  | lowPending =>
    rw [mxStep, srStep_of_low s (by omega) hp]
    by_cases hz : s.srBitIndex.toNat = 0 <;> simp [hz]
  | highPending =>
    rw [mxStep, srStep_of_high s h hp]
    by_cases hz : s.srBitIndex.toNat = 7 <;> simp [hz]

end Sys2Proof.Machine
end

