-- ==== Sys2Proof/Laws/Loop.lean ====
section
/-! SUPPORT. The agents (spec/45_handlers_and_main_loop.md): what each can change, and the framer states. -/

namespace Sys2Proof.Machine

/-- `Idle` is display mode (R39, R201). -/
theorem framerState_eq_idle (s : State) : s.framerState = .idle ↔ s.inputMode = false := by
  unfold State.framerState
  cases s.inputMode <;> cases s.timeoutCounter == 0 <;> simp

/-- `Armed` is input mode with the watchdog not loaded (R39, R201). -/
theorem framerState_eq_armed (s : State) :
    s.framerState = .armed ↔ s.inputMode = true ∧ s.timeoutCounter = 0 := by
  unfold State.framerState
  cases s.inputMode <;> cases h : s.timeoutCounter == 0 <;> simp_all

/-- `Accumulating` is input mode with the watchdog loaded (R39, R201). -/
theorem framerState_eq_accumulating (s : State) :
    s.framerState = .accumulating ↔ s.inputMode = true ∧ s.timeoutCounter ≠ 0 := by
  unfold State.framerState
  cases s.inputMode <;> cases h : s.timeoutCounter == 0 <;> simp_all

/-- What `SR.STEP` can change, in any state (R142). -/
theorem srStep_frame (s : State) :
    (srStep s).2 = { s with
      srBitIndex := (srStep s).2.srBitIndex, srPhase := (srStep s).2.srPhase,
      out := (srStep s).2.out, trace := (srStep s).2.trace } := by
  unfold srStep
  split
  · rfl
  · split <;> rfl

/-- What `MX.NEXT` can change, in any state (R181). -/
theorem mxNext_frame (s : State) :
    mxNext s = { s with
      currentGlyph := (mxNext s).currentGlyph, srValue := (mxNext s).srValue,
      srBitIndex := (mxNext s).srBitIndex, srPhase := (mxNext s).srPhase,
      out := (mxNext s).out, trace := (mxNext s).trace } := by
  have h : advanceGlyph s = { s with
      currentGlyph := (advanceGlyph s).currentGlyph, out := (advanceGlyph s).out,
      trace := (advanceGlyph s).trace } := by
    simp only [advanceGlyph]
    split <;> rfl
  unfold mxNext
  rw [h]
  rfl

/-- What `MX.STEP` can change, in any state (R182). -/
theorem mxStep_frame (s : State) :
    mxStep s = { s with
      currentGlyph := (mxStep s).currentGlyph, srValue := (mxStep s).srValue,
      srBitIndex := (mxStep s).srBitIndex, srPhase := (mxStep s).srPhase,
      out := (mxStep s).out, trace := (mxStep s).trace, refreshNeeded := (mxStep s).refreshNeeded } := by
  unfold mxStep mxFinished
  rw [srStep_frame]
  split
  · simp only []
    split
    · rw [mxNext_frame]
      rfl
    · rfl
  all_goals rfl

/-- The cells after reset are the free value of the machine (R47; log entry 2). -/
@[simp] theorem coreRst_q (s : State) : (coreRst s).q = Config.unspecifiedCells := rfl

/-- Pending command words survive reset (log entry 1). -/
@[simp] theorem coreRst_commands (s : State) : (coreRst s).commands = s.commands := rfl

/-- Reset chooses no agent (log entry 1). -/
@[simp] theorem coreRst_drawn (s : State) : (coreRst s).drawn = s.drawn := rfl

/-- Reset leaves nothing of the state but the model's own pending words and count (R47, R234). -/
theorem coreRst_eq (s : State) :
    coreRst s = { State.reset with
      q := Config.unspecifiedCells, commands := s.commands, drawn := s.drawn } := rfl

/-- What an edge event can change: the queue in input mode, the mode in display mode (R231). -/
theorem irqEdge_cases (level : Bit) (s : State) :
    (s.inputMode = true ∧ irqEdge level s = bqWrite level s) ∨
    (s.inputMode = false ∧ irqEdge level s = { s with inputMode := true }) := by
  cases h : s.inputMode <;> simp [irqEdge, h]

/-- What an iteration can do when it completes (R233). -/
theorem coreIter_cases (s t : State) (h : coreIter s = .ok t) :
    (s.inputMode = true ∧ frIter s = .ok t) ∨ (s.inputMode = false ∧ t = mxStep s) := by
  unfold coreIter at h
  split at h
  · rename_i hm
    exact .inl ⟨hm, h⟩
  · rename_i hm
    cases h
    exact .inr ⟨by simpa using hm, rfl⟩

end Sys2Proof.Machine
end

