-- ==== Sys2Proof/Laws/PerInstr.lean ====
section
/-! SUPPORT. One lemma per operation: its command word, whatever the operands, belongs to a row of the opcode table
(spec/30_encoding.md R106). -/

namespace Sys2Proof.Laws

/-- The family: the command word of the operation is well formed. -/
def EncodedWordWellFormed.Statement (i : Instr) : Prop := wordWellFormed (encode i) = true

namespace EncodedWordWellFormed

theorem coreRst : Statement .coreRst := rfl

theorem coreIter : Statement .coreIter := rfl

theorem bqReset : Statement .bqReset := rfl

theorem bqWrite (bit : Bit) : Statement (.bqWrite bit) := by cases bit <;> rfl

theorem bqRead : Statement .bqRead := rfl

theorem srLoad (value : Byte) : Statement (.srLoad value) := by
  revert value; unfold Statement; decide

theorem srStep : Statement .srStep := rfl

theorem glMatch (glyph digit : Nibble) : Statement (.glMatch glyph digit) := by
  revert glyph digit; unfold Statement; decide

/-- Under the mask of this row a word is its opcode. -/
theorem opcode_and_mask (y : BitVec 32) :
    (0x31#8 ++ y : BitVec (8 + 32)) &&& (0xFF00000000 : BitVec (8 + 32)) = (0x3100000000 : BitVec (8 + 32)) := by
  have hm : ∀ i : Fin 40, (0xFF00000000 : BitVec (8 + 32)).getLsbD i = decide (32 ≤ i.val) := by decide
  have hp : ∀ i : Fin 40, (0x3100000000 : BitVec (8 + 32)).getLsbD i =
      (decide (32 ≤ i.val) && (0x31#8).getLsbD (i.val - 32)) := by decide
  apply BitVec.eq_of_getLsbD_eq
  intro i hi
  have h1 := hm ⟨i, hi⟩
  have h2 := hp ⟨i, hi⟩
  simp only [] at h1 h2
  rw [BitVec.getLsbD_and, h1, h2, BitVec.getLsbD_append]
  by_cases h : i < 32
  · simp [h, show ¬32 ≤ i by omega]
  · simp [h, show 32 ≤ i by omega]

theorem glMask (value : BitVec 28) (glyph : Nibble) : Statement (.glMask value glyph) := by
  have h : (⟨"GL.MASK", 0x3100000000, 0xFF00000000⟩ : OpcodeRow).holds (encode (.glMask value glyph)) = true :=
    beq_iff_eq.mpr (opcode_and_mask (value ++ glyph))
  exact List.any_eq_true.mpr ⟨_, by simp [opcodeRows], h⟩

theorem mxNext : Statement .mxNext := rfl

theorem mxStep : Statement .mxStep := rfl

theorem frBegin : Statement .frBegin := rfl

theorem frBit (bit : Bit) : Statement (.frBit bit) := by cases bit <;> rfl

theorem frPush (group : Group) : Statement (.frPush group) := by
  revert group; unfold Statement; decide

theorem frEnd : Statement .frEnd := rfl

theorem frTmo : Statement .frTmo := rfl

theorem frIter : Statement .frIter := rfl

theorem irqEdge (level : Bit) : Statement (.irqEdge level) := by cases level <;> rfl

theorem irqTick : Statement .irqTick := rfl

end EncodedWordWellFormed

end Sys2Proof.Laws
end

