-- ==== Sys2Proof/Laws/Step.lean ====
section
/-! SUPPORT. Runs of the machine behind Host/Core.lean: one step and then the rest; what fetching does. -/

namespace Sys2Proof.Machine

/-- No step, no change. -/
theorem run_zero (s : State) : Host.Core.run Sys2Proof.core 0 s = .next s := rfl

/-- A run whose first step completes goes on from its next state. -/
theorem run_succ_of_next (n : Nat) (s t : State) (h : step s = .next t) :
    Host.Core.run Sys2Proof.core (n + 1) s = Host.Core.run Sys2Proof.core n t := by
  have hstep : Sys2Proof.core.step s = .next t := h
  simp [Host.Core.run, hstep]

/-- A run whose first step is refused is refused. -/
theorem run_succ_of_refused (n : Nat) (s : State) (r : Refusal) (h : step s = .refused r) :
    Host.Core.run Sys2Proof.core (n + 1) s = .refused r := by
  have hstep : Sys2Proof.core.step s = .refused r := h
  simp [Host.Core.run, hstep]

/-- Fetching takes a pending word or counts a draw, and changes nothing else. -/
theorem fetch_frame (s t : State) (i : Instr) (h : fetch s = .ok (i, t)) :
    t = { s with commands := t.commands, drawn := t.drawn } := by
  unfold fetch at h
  split at h
  · cases h
    rfl
  · split at h
    · cases h
      rfl
    · cases h

end Sys2Proof.Machine
end

