-- ==== Sys2Proof/Tests/Slice0.lean ====
section
/-! SUPPORT. Tests on fixed values, taken from spec/95_test_vectors.md and the worked examples of the rules, and for every
statement with hypotheses a witness that meets them. -/

namespace Sys2Proof.Tests

open Sys2Proof.Machine

/-- One field of the next state, if there is one. -/
def after {α : Type} (a : Answer) (f : State → α) : Option α :=
  match a with
  | .next t => some (f t)
  | .fault _ => none
  | .refused _ => none

/-- Why the answer is a refusal, if it is one. -/
def refusal (a : Answer) : Option Refusal :=
  match a with
  | .next _ => none
  | .fault _ => none
  | .refused r => some r

/-- Why the decoder rejects a word, if it does. -/
def rejected (w : CommandWord) : Option Reserved :=
  match decode w with
  | .ok _ => none
  | .error r => some r

/-! ### Decoding: words written out from R103 to R105, and those of section 2.7 -/

theorem test_decode_core_rst : decodeTableWord 40 0x0000000000 = some .coreRst := by decide
theorem test_decode_core_iter : decodeTableWord 40 0x0100000000 = some .coreIter := by decide
theorem test_decode_bq_reset : decodeTableWord 40 0x1000000000 = some .bqReset := by decide
/-- Opcode `0001 0001`, operand bit 0 set. -/
theorem test_decode_bq_write :
    decodeTableWord 40 0b0001000100000000000000000000000000000001 = some (.bqWrite true) := by decide
theorem test_decode_bq_read : decodeTableWord 40 0x1200000000 = some .bqRead := by decide
/-- Opcode `0010 0000`, operand bits 7 to 0 `1010 0101`. -/
theorem test_decode_sr_load :
    decodeTableWord 40 0b0010000000000000000000000000000010100101 = some (.srLoad 0xA5) := by decide
theorem test_decode_sr_step : decodeTableWord 40 0x2100000000 = some .srStep := by decide
/-- Opcode `0011 0000`, bits 7 to 4 the glyph `0101`, bits 3 to 0 the digit `0110`. -/
theorem test_decode_gl_match :
    decodeTableWord 40 0b0011000000000000000000000000000001010110 = some (.glMatch 5 6) := by decide
/-- Opcode `0011 0001`, bits 31 to 4 the value `1 0000 1110 0001`, bits 3 to 0 the glyph `0001`. -/
theorem test_decode_gl_mask :
    decodeTableWord 40 0b0011000100000000000000010000111000010001 = some (.glMask 4321 1) := by decide
theorem test_decode_gl_mask_all_ones :
    decodeTableWord 40 0x31FFFFFFFF = some (.glMask 0xFFFFFFF 15) := by decide
theorem test_decode_mx_next : decodeTableWord 40 0x4000000000 = some .mxNext := by decide
theorem test_decode_mx_step : decodeTableWord 40 0x4100000000 = some .mxStep := by decide
theorem test_decode_fr_begin : decodeTableWord 40 0x5000000000 = some .frBegin := by decide
theorem test_decode_fr_bit : decodeTableWord 40 0x5100000001 = some (.frBit true) := by decide
/-- Opcode `0101 0010`, bits 4 to 0 the group `10010`. -/
theorem test_decode_fr_push :
    decodeTableWord 40 0b0101001000000000000000000000000000010010 = some (.frPush 0b10010) := by decide
theorem test_decode_fr_end : decodeTableWord 40 0x5300000000 = some .frEnd := by decide
theorem test_decode_fr_tmo : decodeTableWord 40 0x5400000000 = some .frTmo := by decide
theorem test_decode_fr_iter : decodeTableWord 40 0x5500000000 = some .frIter := by decide
theorem test_decode_irq_edge : decodeTableWord 40 0x6000000001 = some (.irqEdge true) := by decide
theorem test_decode_irq_tick : decodeTableWord 40 0x6100000000 = some .irqTick := by decide

/-! ### Ill-formed words, one or more for each format and for the opcode (R105, R106) -/

theorem test_reserved_opcodes :
    [0x0200000000, 0x1300000000, 0x7000000000, 0xFF00000000].map wordWellFormed = [false, false, false, false] ∧
    rejected 0x0200000000 = some (.opcode 0x02) ∧ rejected 0xFF00000000 = some (.opcode 0xFF) := by decide
theorem test_reserved_format_z :
    wordWellFormed 0x0100000001 = false ∧ rejected 0x0100000001 = some (.operand 0x01) := by decide
theorem test_reserved_format_b :
    wordWellFormed 0x1100000002 = false ∧ rejected 0x1100000002 = some (.operand 0x11) := by decide
theorem test_reserved_format_v8 :
    wordWellFormed 0x2000000100 = false ∧ rejected 0x2000000100 = some (.operand 0x20) := by decide
theorem test_reserved_format_gd :
    wordWellFormed 0x3080000056 = false ∧ rejected 0x3080000056 = some (.operand 0x30) := by decide
theorem test_reserved_format_g5 :
    wordWellFormed 0x5200000020 = false ∧ rejected 0x5200000020 = some (.operand 0x52) := by decide

/-! ### One step of each operation -/

/-- A queue whose write index wraps (V-BQ-7). -/
def wrapping : State := { State.reset with writeIndex := 15, readIndex := 3 }

/-- A queue with one unread bit at the last cell (V-BQ-8). -/
def lastCell : State := { State.reset with writeIndex := 2, readIndex := 15, q := State.reset.q.set 15 true }

/-- The sender before the last clock rise of a byte, a tick pending (V-MX-7). -/
def lastPhase : State :=
  { State.reset with srBitIndex := 7, srPhase := .highPending, currentGlyph := 14, refreshNeeded := true }

/-- A frame one bit short of its fourth digit, on its last tick. -/
def framing : State :=
  { State.reset with
    inputMode := true, timeoutCounter := 1, refreshNeeded := true, digitCount := 3, displayValue := 999,
    displayDotmask := 0b101, serInput := 0b1001, serInputPos := 4 }

/-- The same with its last bit, a set dot flag, in the queue. -/
def completing : State := { framing with writeIndex := 1, q := State.reset.q.set 0 true }

theorem test_bq_reset : after (exec .bqReset wrapping) (fun t => (t.writeIndex, t.readIndex)) = some (0, 0) := by decide
/-- V-BQ-7. -/
theorem test_bq_write_wraps :
    after (exec (.bqWrite true) wrapping) (fun t => (t.writeIndex, t.occupancy, t.readCell 15, t.errorLog)) =
      some (0, 13, true, []) := by decide
/-- V-BQ-4: the sixteenth unread bit. -/
theorem test_bq_write_overflows :
    after (exec (.bqWrite true) { State.reset with writeIndex := 15 })
      (fun t => (t.queueEmpty, t.errorLog)) = some (true, [.queueOverflow]) := by decide
/-- V-BQ-1. -/
theorem test_bq_read_empty :
    after (exec .bqRead State.reset) (fun t => (t.result, t.readIndex)) = some (.bitRead none, 0) := by decide
/-- V-BQ-8, with the other bit. -/
theorem test_bq_read_wraps :
    after (exec .bqRead lastCell) (fun t => (t.result, t.readIndex)) = some (.bitRead (some true), 0) := by decide
theorem test_sr_load :
    after (exec (.srLoad 0xA5) lastPhase) (fun t => (t.srValue, t.srBitIndex, t.srPhase, t.trace)) =
      some (0xA5, 0, .lowPending, []) := by decide
/-- V-SR-9: the most significant bit of 0xC0 after the fall of the clock. -/
theorem test_sr_step_low :
    after (exec .srStep { State.reset with srValue := 0xC0, srBitIndex := 0 })
      (fun t => (t.trace, t.result, t.srPhase)) =
      some ([⟨.clk, false⟩, ⟨.ser, true⟩], .status .beginning, .highPending) := by decide
/-- V-SR-10. -/
theorem test_sr_step_last :
    after (exec .srStep lastPhase) (fun t => (t.trace, t.result, t.srBitIndex)) =
      some ([⟨.clk, true⟩], .status .last, 8) := by decide
/-- Rule R161: digit 6 asserts glyph 5, digit 5 does not assert glyph 6. -/
theorem test_gl_match :
    after (exec (.glMatch 5 6) State.reset) (·.result) = some (.glyphMatch true) ∧
    after (exec (.glMatch 6 5) State.reset) (·.result) = some (.glyphMatch false) := by decide
/-- The words of section 2.3: 0x0D, 0x07, 0x0F. -/
theorem test_gl_mask :
    after (exec (.glMask 4321 1) State.reset) (·.result) = some (.mask 0x0D) ∧
    after (exec (.glMask 6789 7) State.reset) (·.result) = some (.mask 0x07) ∧
    after (exec (.glMask 9999 13) State.reset) (·.result) = some (.mask 0x0F) := by decide
/-- V-MX-1. -/
theorem test_mx_next :
    after (exec .mxNext { State.reset with displayValue := 4321 })
      (fun t => (t.trace, t.currentGlyph, t.srValue, t.srBitIndex)) =
      some ([⟨.cnt, true⟩], 1, 0x0D, 0) := by decide
/-- V-MX-2. -/
theorem test_mx_next_wraps :
    after (exec .mxNext { State.reset with currentGlyph := 14 }) (fun t => (t.trace, t.currentGlyph, t.srValue)) =
      some ([⟨.rst, true⟩, ⟨.rst, false⟩, ⟨.cnt, true⟩], 0, 0x0F) := by decide
/-- V-MX-5. -/
theorem test_mx_step_starts_a_cycle :
    after (exec .mxStep { State.reset with currentGlyph := 14, refreshNeeded := true })
      (fun t => (t.trace, t.refreshNeeded, t.srValue)) =
      some ([⟨.cnt, false⟩, ⟨.rst, true⟩, ⟨.rst, false⟩, ⟨.cnt, true⟩], false, 0x0F) := by decide
/-- V-MX-7, its first step. -/
theorem test_mx_step_last :
    after (exec .mxStep lastPhase) (fun t => (t.trace, t.refreshNeeded, t.srBitIndex)) =
      some ([⟨.clk, true⟩], true, 8) := by decide
/-- V-FR-1. -/
theorem test_fr_begin :
    after (exec .frBegin { State.reset with displayValue := 4321, displayDotmask := 2, digitCount := 4 })
      (fun t => (t.displayValue, t.displayDotmask, t.digitCount, t.timeoutCounter)) = some (0, 0, 0, 3) := by decide
/-- V-FR-2, its second bit. -/
theorem test_fr_bit :
    after (exec (.frBit true) { State.reset with serInput := 1, serInputPos := 1 })
      (fun t => (t.serInput, t.serInputPos)) = some (0b11, 2) := by decide
/-- V-FR-3. -/
theorem test_fr_bit_flushes :
    after (exec (.frBit false) { State.reset with serInput := 0b0011, serInputPos := 4 })
      (fun t => (t.displayValue, t.digitCount, t.serInput, t.serInputPos)) = some (3, 1, 0, 0) := by decide
/-- V-FR-4. -/
theorem test_fr_push :
    after (exec (.frPush 0b10010) { State.reset with digitCount := 1, displayValue := 1 })
      (fun t => (t.displayValue, t.displayDotmask, t.digitCount)) = some (21, 0b10, 2) := by decide
/-- V-FR-7. -/
theorem test_fr_push_invalid :
    after (exec (.frPush 0b11111) { State.reset with digitCount := 2, displayValue := 21, displayDotmask := 0b10 })
      (fun t => (t.displayValue, t.displayDotmask, t.digitCount, t.errorLog)) =
      some (21, 0b10, 2, [.invalidDigitValue]) := by decide
/-- V-FR-9. -/
theorem test_fr_end :
    after (exec .frEnd { framing with writeIndex := 9, readIndex := 9 })
      (fun t => (t.inputMode, t.timeoutCounter, t.writeIndex, t.readIndex, t.displayValue)) =
      some (false, 0, 0, 0, 999) := by decide
/-- V-FR-10. -/
theorem test_fr_tmo :
    after (exec .frTmo { framing with timeoutCounter := 3 }) (fun t => (t.timeoutCounter, t.inputMode)) =
      some (2, true) := by decide
/-- V-FR-11. -/
theorem test_fr_tmo_aborts :
    after (exec .frTmo { framing with displayDotmask := 0b10, displayValue := 21 })
      (fun t => (t.timeoutCounter, t.inputMode, t.displayDotmask, t.displayValue, t.errorLog)) =
      some (0, false, 0b11, 21, [.framingTimeout]) := by decide
/-- V-FR-12. -/
theorem test_fr_iter :
    after (exec .frIter { State.reset with inputMode := true, writeIndex := 5, q := State.reset.q.set 0 true })
      (fun t => (t.timeoutCounter, t.displayValue, t.digitCount, t.readIndex)) = some (3, 1, 1, 5) := by decide
/-- A completed frame suppresses the time-out of the same iteration (R255). -/
theorem test_fr_iter_completes :
    after (exec .frIter completing)
      (fun t => (t.displayValue, t.displayDotmask, t.inputMode, t.refreshNeeded, t.errorLog)) =
      some (9999, 0b1101, false, true, []) := by decide
/-- V-IR-1. -/
theorem test_irq_edge_announces :
    after (exec (.irqEdge true) State.reset) (fun t => (t.inputMode, t.writeIndex)) = some (true, 0) := by decide
/-- V-IR-2. -/
theorem test_irq_edge_queues :
    after (exec (.irqEdge true) { State.reset with inputMode := true }) (fun t => (t.readCell 0, t.writeIndex)) =
      some (true, 1) := by decide
/-- V-IR-3. -/
theorem test_irq_tick :
    after (exec .irqTick State.reset) (fun t => t.refreshNeeded) = some true := by decide
/-- V-IR-4. -/
theorem test_core_iter_display :
    after (exec .coreIter State.reset) (fun t => (t.trace, t.out.cnt)) = some ([⟨.cnt, false⟩], some false) := by decide
/-- V-IR-5, its last step. -/
theorem test_core_iter_input :
    after (exec .coreIter { State.reset with inputMode := true, refreshNeeded := true })
      (fun t => (t.timeoutCounter, t.out.cnt)) = some (2, none) := by decide
/-- V-IR-6. -/
theorem test_core_rst :
    after (exec .coreRst completing) (fun t => (t.displayValue, t.inputMode, t.srBitIndex, t.trace)) =
      some (0, false, 8, []) := by decide
/-- The host's view: the very next step runs the instruction placed. -/
theorem test_step_runs_the_word_placed :
    after (step (State.reset.withFetchWord 40 0x20000000A5)) (fun t => (t.srValue, t.srBitIndex)) =
      some (0xA5, 0) := by decide
/-- P3, its first group: announce, iteration, digit 1, iteration. -/
theorem test_first_group_of_a_frame :
    after (runScript (announceScript ++ .coreIter :: digitScript 1 false ++ [.coreIter]) State.reset)
      (fun t => (t.displayValue, t.digitCount, t.writeIndex, t.readIndex)) = some (1, 1, 5, 5) := by decide

/-! ### Witnesses: states and operands that meet the hypotheses of the statements -/

theorem reset_rangeInv : RangeInv State.reset := by constructor <;> decide

theorem lastPhase_rangeInv : RangeInv lastPhase := by constructor <;> decide

theorem framing_rangeInv : RangeInv framing := by constructor <;> decide

theorem completing_rangeInv : RangeInv completing := { framing_rangeInv with }

theorem reset_execInv : ExecInv State.reset :=
  { reset_rangeInv with accumulating := by decide, idle := by decide }

theorem lastPhase_execInv : ExecInv lastPhase :=
  { lastPhase_rangeInv with accumulating := by decide, idle := by decide }

theorem framing_execInv : ExecInv framing :=
  { framing_rangeInv with accumulating := by decide, idle := by decide }

theorem completing_execInv : ExecInv completing :=
  { completing_rangeInv with accumulating := by decide, idle := by decide }

theorem witness_DecodedWordIsTheEncodingOfItsOperation :
    decode 0x31FFFFFFFF = .ok (.glMask 0xFFFFFFF 15) := by rfl

theorem witness_StepRunsTheDecodedCommand :
    ({ State.reset with commands := [0x20000000A5] } : State).commands = 0x20000000A5 :: [] ∧
      decode 0x20000000A5 = .ok (.srLoad 0xA5) := ⟨rfl, rfl⟩

theorem witness_StepRefusesAReservedCommand_opcode :
    ({ State.reset with commands := [0x1300000000] } : State).commands = 0x1300000000 :: [] ∧
      wordWellFormed 0x1300000000 = false ∧
      refusal (step { State.reset with commands := [0x1300000000] }) = some (.reservedOpcode 0x13) := by decide

theorem witness_StepRefusesAReservedCommand_operand :
    ({ State.reset with commands := [0x1100000002] } : State).commands = 0x1100000002 :: [] ∧
      wordWellFormed 0x1100000002 = false ∧
      refusal (step { State.reset with commands := [0x1100000002] }) = some (.reservedOperand 0x11) := by decide

theorem witness_StepWithoutCommandRunsOneAgent : State.reset.commands = [] := rfl

theorem witness_QueueRoundTripReturnsTheBitsInOrder :
    State.reset.queueEmpty = true ∧ (List.replicate 15 true).length ≤ 15 ∧ ([] : List Bit).length ≤ 15 := by decide

theorem witness_DeadCellsAreUnobservable :
    SameButDeadCells completing { completing with q := (Vector.replicate 16 true) } :=
  ⟨rfl, by decide⟩

theorem witness_SrStepIssuesOneClockPhase :
    State.reset.srBitIndex.toNat = 8 ∧
    ({ State.reset with srBitIndex := 0 } : State).srBitIndex.toNat = 0 ∧
    ({ State.reset with srBitIndex := 0 } : State).srPhase = .lowPending ∧
    lastPhase.srBitIndex.toNat = 7 ∧ lastPhase.srPhase = .highPending := by decide

theorem witness_PinSequenceOfOneByte : 8 ≤ 8 ∧ 7 < 8 ∧ 0 ≤ 8 := by decide

theorem witness_MxNextStartsAGlyphCycle :
    lastPhase.currentGlyph.toNat = 14 ∧ State.reset.currentGlyph.toNat ≤ 14 := by decide

theorem witness_MxStepStartsACycleOnlyWhenFinishedAndTicked :
    RangeInv lastPhase ∧ after (exec .srStep lastPhase) (·.result) = some (.status .last) ∧
    RangeInv State.reset ∧ after (exec .srStep State.reset) (·.result) = some (.status .finished) ∧
    State.reset.refreshNeeded = false ∧ RangeInv { State.reset with refreshNeeded := true } :=
  ⟨lastPhase_rangeInv, by decide, reset_rangeInv, by decide, rfl, { reset_rangeInv with }⟩

theorem witness_GlyphCursorGoesRoundFifteenGlyphs : lastPhase.currentGlyph.toNat ≤ 14 := by decide

theorem witness_GlyphCycleSendsTheMaskOnTheWire :
    RangeInv { State.reset with refreshNeeded := true } ∧ State.reset.inputMode = false ∧
      State.reset.srFinished = true := ⟨{ reset_rangeInv with }, rfl, rfl⟩

theorem witness_FrBeginClearsTheFrameAndLoadsTheWatchdog : framing.inputMode = true := rfl

theorem witness_FrPushAcceptsADigitOrDiscardsTheGroup :
    RangeInv framing ∧ framing.digitCount.toNat = 3 ∧ framing.digitCount.toNat < Config.N ∧
    Config.N ≤ ({ State.reset with digitCount := 4 } : State).digitCount.toNat ∧
    (9#5).toNat % 16 < 10 ∧ 10 ≤ (10#5).toNat % 16 := ⟨framing_rangeInv, by decide⟩

theorem witness_FrBitAccumulatesAndFlushesTheFifthBit :
    RangeInv framing ∧ framing.serInputPos.toNat = 4 ∧ framing.digitCount.toNat < Config.N ∧
    RangeInv { State.reset with serInputPos := 3, digitCount := 4 } :=
  ⟨framing_rangeInv, by decide, by decide, by constructor <;> decide⟩

theorem witness_FrTmoCountsDownOrAbortsTheFrame :
    State.reset.timeoutCounter.toNat = 0 ∧ framing.timeoutCounter.toNat = 1 ∧
    ({ framing with timeoutCounter := 2 } : State).timeoutCounter.toNat = 2 := by decide

theorem witness_FlushBeyondTheFrameIsRefusedWhole :
    Config.N ≤ ({ framing with digitCount := 4 } : State).digitCount.toNat ∧ framing.serInputPos.toNat = 4 := by decide

/-- The frame completes in `completing`, and in `framing`, with nothing queued, the tick is taken; a fresh frame stands
in the third state, and the fourth is in display mode. -/
theorem witness_FrIterDrainsTheUnreadBitsThenCountsATick :
    (RangeInv completing ∧ completing.inputMode = true ∧ completing.digitCount.toNat < Config.N) ∧
    (RangeInv framing ∧ framing.inputMode = true ∧ framing.digitCount.toNat < Config.N) ∧
    (RangeInv { State.reset with inputMode := true }) ∧ State.reset.inputMode = false :=
  ⟨⟨completing_rangeInv, by decide⟩, ⟨framing_rangeInv, by decide⟩, { reset_rangeInv with }, rfl⟩

theorem witness_AcceptedDigitsStandAtTheirPositions :
    [((9 : Nibble), true), (0, false), (6, true), (9, true)].length ≤ Config.N ∧
    ∀ d ∈ [((9 : Nibble), true), (0, false), (6, true), (9, true)], d.1.toNat ≤ 9 := by decide

theorem witness_InvalidGroupLeavesTheFramerUnchanged :
    RangeInv { framing with serInput := 0, serInputPos := 0 } ∧ framing.digitCount.toNat < Config.N ∧
      10 ≤ (10 : Nibble).toNat ∧ 10 ≤ (15 : Nibble).toNat :=
  ⟨by constructor <;> decide, by decide⟩

theorem witness_CoreIterCompletesInEveryExecutionState :
    ExecInv lastPhase ∧ lastPhase.inputMode = false ∧ ExecInv completing ∧ completing.inputMode = true :=
  ⟨lastPhase_execInv, rfl, completing_execInv, rfl⟩

theorem witness_EveryFieldHasItsOneWriter :
    after (exec (.irqEdge true) framing) (·.writeIndex) = some 1 ∧
    after (exec .irqTick framing) (·.refreshNeeded) = some true ∧
    after (exec .coreIter completing) (·.writeIndex) = some 0 ∧ completing.writeIndex ≠ 0 := by decide

theorem witness_EveryStepKeepsTheRegisterRanges :
    RangeInv (completing.withFetchWord 40 0x0100000000) ∧
    after (step (completing.withFetchWord 40 0x0100000000)) (·.digitCount) = some 4 :=
  ⟨{ completing_rangeInv with }, by decide⟩

theorem witness_AgentStepsCompleteAndKeepTheInvariant : ExecInv completing ∧ ExecInv lastPhase :=
  ⟨completing_execInv, lastPhase_execInv⟩

theorem witness_ReachableStatesMeetTheInvariants :
    Reachable { ({ State.reset with q := State.reset.q } : State) with inputMode := true } :=
  .step (.edge true) _ _ (.reset State.reset.q) rfl

theorem witness_TheMachineNeverStops : ExecInv framing ∧ framing.commands = [] := ⟨framing_execInv, rfl⟩

theorem witness_ModeChangesOnlyByEdgeAndIteration :
    State.reset.inputMode = false ∧
    after (exec (handlerOf (.edge false)) State.reset) (·.inputMode) = some true ∧
    framing.inputMode = true ∧ after (exec (handlerOf .iteration) framing) (·.inputMode) = some false := by decide

theorem witness_InputModeFreezesTheOutputs :
    framing.inputMode = true ∧ Event.iteration ≠ .reset ∧
    after (exec (handlerOf .iteration) framing) (·.displayDotmask) = some 0b101 := by decide

theorem witness_DisplayModeKeepsTheNumber :
    lastPhase.inputMode = false ∧ Event.iteration ≠ .reset ∧
    after (exec (handlerOf .iteration) lastPhase) (·.srBitIndex) = some 8 := by decide

/-- The watchdog falls by a consumed tick in the first state, and to 0 as input mode ends in `completing`. -/
theorem witness_WatchdogIsNotReloadedInAFrame :
    ({ framing with timeoutCounter := 2 } : State).framerState = .accumulating ∧
    after (exec (handlerOf .iteration) { framing with timeoutCounter := 2 })
      (fun t => (t.timeoutCounter, t.inputMode)) = some (1, true) ∧
    completing.framerState = .accumulating ∧
    after (exec (handlerOf .iteration) completing) (fun t => (t.timeoutCounter, t.inputMode)) = some (0, false) := by
  decide

theorem witness_TickPendingAtEntryCounts :
    ExecInv { State.reset with inputMode := true, refreshNeeded := true } ∧
    ({ State.reset with inputMode := true, refreshNeeded := true } : State).framerState = .armed ∧
    ExecInv { State.reset with inputMode := true } :=
  ⟨{ reset_rangeInv with accumulating := by decide, idle := by decide }, by decide,
    { reset_rangeInv with accumulating := by decide, idle := by decide }⟩

theorem witness_StalledFrameTimesOut : ExecInv lastPhase ∧ lastPhase.inputMode = false := ⟨lastPhase_execInv, rfl⟩

/-- A frame with its full three digits and four bits of the next, and one with nothing. -/
theorem witness_FrameStalledAfterSomeBitsKeepsThem :
    ExecInv State.reset ∧ State.reset.inputMode = false ∧ State.reset.refreshNeeded = false ∧
    [((9 : Nibble), true), (0, false), (6, true)].length < Config.N ∧
    (∀ d ∈ [((9 : Nibble), true), (0, false), (6, true)], d.1.toNat ≤ 9) ∧
    [true, false, true, true].length < 5 ∧ ([] : List (Nibble × Bit)).length < Config.N ∧ ([] : List Bit).length < 5 :=
  ⟨reset_execInv, rfl, rfl, by decide⟩

theorem witness_FrameIsDecodedIntoTheDisplayedNumber :
    ExecInv State.reset ∧ State.reset.inputMode = false ∧ State.reset.refreshNeeded = false ∧
    [((9 : Nibble), true), (0, false), (6, true), (9, true)].length = Config.N ∧
    ∀ d ∈ [((9 : Nibble), true), (0, false), (6, true), (9, true)], d.1.toNat ≤ 9 :=
  ⟨reset_execInv, rfl, rfl, by decide⟩

end Sys2Proof.Tests
end

section
/-! The flush of `FR.BIT` into a full frame (U5 of 93_implementation_defined.md): the fifth bit pushes the group, a push
with no room is refused, and the refusal is the answer of the whole operation. -/

namespace Sys2Proof.Machine

/-- `FR.BIT` executes as its block operation, settled into an answer. -/
theorem exec_frBit_eq_settle (b : Bit) (s : State) : exec (.frBit b) s = settle (frBit b s) := rfl

/-- `FR.PUSH` has no room in a full frame (R204). -/
theorem frPush_of_full (g : Group) (s : State) (hfull : Config.N ≤ s.digitCount.toNat) :
    frPush g s = .error .pushBeyondFrame := by
  rcases frPush_cases g s with ⟨-, hp⟩ | ⟨hroom, -⟩ | ⟨hroom, -⟩
  · exact hp
  · omega
  · omega

/-- Settles O36: the flush is a push into a frame that is still full after the accumulator is cleared. -/
theorem flushBeyondTheFrameIsRefusedWhole : Obligations.FlushBeyondTheFrameIsRefusedWhole := by
  intro s bit hfull hpos
  have hpush : frPush (takeBit bit s).serInput (clearGroup s) = .error .pushBeyondFrame :=
    frPush_of_full _ _ (by rwa [clearGroup_digitCount])
  rw [exec_frBit_eq_settle, frBit_flush bit s hpos, hpush, settle_error]

end Sys2Proof.Machine
end

section
/-! The register ranges (10_state.md R46): each operation of the blocks keeps them, so every step of the machine
does. -/

namespace Sys2Proof.Machine

/-- Recording a result touches no register. -/
theorem returning_rangeInv (r : Result) (s : State) (hs : RangeInv s) : RangeInv (s.returning r) := { hs with }

/-- The ranges of the next state of an operation that returns nothing. -/
theorem done_rangeInv (s t : State) (hs : RangeInv s) (h : done s = .next t) : RangeInv t := by
  cases h
  exact returning_rangeInv _ s hs

/-- The ranges of the next state of an operation that returns a value. -/
theorem answer_rangeInv (r : Result) (s t : State) (hs : RangeInv s) (h : answer r s = .next t) : RangeInv t := by
  cases h
  exact returning_rangeInv r s hs

/-- The ranges of the next state of an operation that may be refused. -/
theorem settle_rangeInv (x : Except Refusal State) (t : State) (hx : ∀ u, x = .ok u → RangeInv u)
    (h : settle x = .next t) : RangeInv t := by
  obtain ⟨u, hu, rfl⟩ := settle_eq_next x t h
  exact returning_rangeInv _ u (hx u hu)

/-! ### The queue touches no register in range -/

theorem bqReset_rangeInv (s : State) (hs : RangeInv s) : RangeInv (bqReset s) := { hs with }

theorem bqWrite_rangeInv (b : Bit) (s : State) (hs : RangeInv s) : RangeInv (bqWrite b s) := by
  rw [bqWrite_eq]
  exact { hs with }

theorem bqRead_rangeInv (s : State) (hs : RangeInv s) : RangeInv (bqRead s).2 := by
  rw [bqRead_frame]
  exact { hs with }

/-! ### The sender and the sequencer -/

theorem srLoad_rangeInv (v : Byte) (s : State) (hs : RangeInv s) : RangeInv (srLoad v s) :=
  { hs with bitIndex_le := by simp, finished_low := fun _ => rfl }

/-- The low-clock phase leaves the bit cursor, which is not at its end (R142). -/
theorem srLowPhase_rangeInv (s : State) (hs : RangeInv s) (h : s.srBitIndex.toNat < 8) : RangeInv (srLowPhase s) :=
  { hs with finished_low := fun h8 => absurd h8 (Nat.ne_of_lt h) }

/-- The high-clock phase moves the bit cursor to at most 8 and makes the low phase pending (R142). -/
theorem srHighPhase_rangeInv (s : State) (hs : RangeInv s) (h : s.srBitIndex.toNat < 8) :
    RangeInv (srHighPhase s) := by
  have hindex : (srHighPhase s).srBitIndex.toNat = s.srBitIndex.toNat + 1 := by
    rw [srHighPhase_srBitIndex, toNat_fit _ _ (by omega)]
  exact { hs with bitIndex_le := by omega, finished_low := fun _ => rfl }

theorem srStep_rangeInv (s : State) (hs : RangeInv s) : RangeInv (srStep s).2 := by
  rcases Nat.lt_or_eq_of_le hs.bitIndex_le with hlt | heq
  · cases hp : s.srPhase with
    | lowPending =>
      rw [srStep_of_low s (Nat.ne_of_lt hlt) hp]
      exact srLowPhase_rangeInv s hs hlt
    | highPending =>
      rw [srStep_of_high s hlt hp]
      exact srHighPhase_rangeInv s hs hlt
  · rw [srStep_of_finished s heq]
    exact hs

/-- The glyph cursor goes round 0 to 14 and a fresh byte is loaded (R181). -/
theorem mxNext_rangeInv (s : State) (hs : RangeInv s) : RangeInv (mxNext s) := by
  obtain ⟨heq, hglyph⟩ := mxNext_eq s hs.glyph_le
  rw [heq]
  exact { hs with bitIndex_le := by simp, glyph_le := by simp only []; omega, finished_low := fun _ => rfl }

theorem mxStep_rangeInv (s : State) (hs : RangeInv s) : RangeInv (mxStep s) := by
  rcases Nat.lt_or_eq_of_le hs.bitIndex_le with hlt | heq
  · rw [mxStep_of_sending s hlt]
    exact srStep_rangeInv s hs
  · rw [mxStep_of_finished s heq]
    split
    · exact mxNext_rangeInv _ { hs with }
    · exact { hs with }

/-! ### The framer -/

/-- A fresh frame has accepted no digit, and its watchdog is full (R202). -/
theorem frBegin_rangeInv (s : State) (hs : RangeInv s) : RangeInv (frBegin s) :=
  { hs with
    pos_le := by simp
    digits_le := by simp
    timeout_le := by rw [frBegin_timeoutCounter]; decide
    value_le := by simp
    value_lt := by simp
    dots_lt := by simp
    input_lt := by simp }

theorem frEnd_rangeInv (s : State) (hs : RangeInv s) : RangeInv (frEnd s) := { hs with timeout_le := by simp }

/-- The abort of a frame lights the dot of position 0, which is a position of the display (R206). -/
theorem abortFrame_rangeInv (s : State) (hs : RangeInv s) : RangeInv (abortFrame s) :=
  { hs with
    timeout_le := by simp
    dots_lt := setMaskBit_lt _ _ _ (by decide) (by decide) hs.dots_lt }

/-- Counting down keeps the watchdog in its range. -/
theorem countDown_rangeInv (s : State) (hs : RangeInv s) (h : 2 ≤ s.timeoutCounter.toNat) :
    RangeInv { s with timeoutCounter := s.timeoutCounter - 1 } :=
  { hs with
    timeout_le := by
      have hle := hs.timeout_le
      simp only []
      bv_omega }

/-- Consuming the tick touches no register. -/
theorem clearTick_rangeInv (s : State) (hs : RangeInv s) : RangeInv { s with refreshNeeded := false } := { hs with }

theorem frTmo_rangeInv (s t : State) (hs : RangeInv s) (h : frTmo s = .ok t) : RangeInv t := by
  rcases frTmo_cases s with ⟨-, ht⟩ | ⟨-, ht⟩ | ⟨h2, ht⟩ <;> rw [ht] at h <;> cases h
  · exact abortFrame_rangeInv _ { hs with timeout_le := by simp }
  · exact countDown_rangeInv s hs h2

/-- The drain loop reads bits and runs `FR.BIT` on them; both keep the ranges, and so does the `FR.END` of a completed
frame (R207). -/
theorem drain_rangeInv (k : Nat) (s : State) (e : DrainEnd) (t : State) (hs : RangeInv s)
    (h : drain k s = .ok (e, t)) : RangeInv t := by
  rcases drain_induction RangeInv (fun _ hu => { hu with }) frBit_rangeInv k s e t hs h with
    ⟨-, ht⟩ | ⟨-, u, hu, -, rfl⟩
  · exact ht
  · exact frEnd_rangeInv u hu

theorem frIter_rangeInv (s t : State) (hs : RangeInv s) (h : frIter s = .ok t) : RangeInv t := by
  have hstart : RangeInv (if s.timeoutCounter = 0 then frBegin s else s) := by
    split
    · exact frBegin_rangeInv s hs
    · exact hs
  obtain ⟨-, hdrain | ⟨u, hdrain, hbook⟩⟩ := frIter_cases s t h
  · exact drain_rangeInv _ _ _ _ hstart hdrain
  · have hu := drain_rangeInv _ _ _ _ hstart hdrain
    rcases hbook with ⟨-, rfl⟩ | ⟨-, htmo⟩
    · exact hu
    · exact frTmo_rangeInv _ t (clearTick_rangeInv u hu) htmo

/-! ### The agents -/

theorem irqEdge_rangeInv (level : Bit) (s : State) (hs : RangeInv s) : RangeInv (irqEdge level s) := by
  rcases irqEdge_cases level s with ⟨-, he⟩ | ⟨-, he⟩ <;> rw [he]
  · exact bqWrite_rangeInv level s hs
  · exact { hs with }

theorem irqTick_rangeInv (s : State) (hs : RangeInv s) : RangeInv (irqTick s) := { hs with }

theorem coreIter_rangeInv (s t : State) (hs : RangeInv s) (h : coreIter s = .ok t) : RangeInv t := by
  rcases coreIter_cases s t h with ⟨-, hiter⟩ | ⟨-, rfl⟩
  · exact frIter_rangeInv s t hs hiter
  · exact mxStep_rangeInv s hs

/-- Every reset value is in its range (R47). -/
theorem rangeInv_reset : RangeInv State.reset := by constructor <;> decide

theorem coreRst_rangeInv (s : State) : RangeInv (coreRst s) := { rangeInv_reset with }

/-! ### Every operation, every step -/

/-- Every operation that completes keeps the register ranges. -/
theorem exec_rangeInv (i : Instr) (s t : State) (hs : RangeInv s) (h : exec i s = .next t) : RangeInv t := by
  cases i with
  | coreRst => exact done_rangeInv _ t (coreRst_rangeInv s) h
  | coreIter => exact settle_rangeInv _ t (fun u => coreIter_rangeInv s u hs) h
  | bqReset => exact done_rangeInv _ t (bqReset_rangeInv s hs) h
  | bqWrite bit => exact done_rangeInv _ t (bqWrite_rangeInv bit s hs) h
  | bqRead => exact answer_rangeInv _ _ t (bqRead_rangeInv s hs) h
  | srLoad value => exact done_rangeInv _ t (srLoad_rangeInv value s hs) h
  | srStep => exact answer_rangeInv _ _ t (srStep_rangeInv s hs) h
  | glMatch glyph digit => exact answer_rangeInv _ s t hs h
  | glMask value glyph => exact answer_rangeInv _ s t hs h
  | mxNext => exact done_rangeInv _ t (mxNext_rangeInv s hs) h
  | mxStep => exact done_rangeInv _ t (mxStep_rangeInv s hs) h
  | frBegin => exact done_rangeInv _ t (frBegin_rangeInv s hs) h
  | frBit bit => exact settle_rangeInv _ t (fun u => frBit_rangeInv bit s u hs) h
  | frPush group => exact settle_rangeInv _ t (fun u => frPush_rangeInv group s u hs) h
  | frEnd => exact done_rangeInv _ t (frEnd_rangeInv s hs) h
  | frTmo => exact settle_rangeInv _ t (fun u => frTmo_rangeInv s u hs) h
  | frIter => exact settle_rangeInv _ t (fun u => frIter_rangeInv s u hs) h
  | irqEdge level => exact done_rangeInv _ t (irqEdge_rangeInv level s hs) h
  | irqTick => exact done_rangeInv _ t (irqTick_rangeInv s hs) h

/-- Fetching touches no register. -/
theorem fetch_rangeInv (s t : State) (i : Instr) (hs : RangeInv s) (h : fetch s = .ok (i, t)) : RangeInv t := by
  rw [fetch_frame s t i h]
  exact { hs with }

/-- A step that completes has fetched an operation and executed it. -/
theorem step_eq_next (s t : State) (h : step s = .next t) : ∃ i u, fetch s = .ok (i, u) ∧ exec i u = .next t := by
  unfold step at h
  split at h
  · next i u hfetch => exact ⟨i, u, hfetch, h⟩
  · cases h

/-- Settles O47: fetching keeps the ranges, and so does every operation. -/
theorem everyStepKeepsTheRegisterRanges : Obligations.EveryStepKeepsTheRegisterRanges := by
  intro s t hs h
  obtain ⟨i, u, hfetch, hexec⟩ := step_eq_next s t h
  exact exec_rangeInv i u t (fetch_rangeInv s u i hs hfetch) hexec

end Sys2Proof.Machine
end

section
/-! The invariant of executions (10_state.md R46; log entry 11). It is met in display mode by an idle framer, on the
announce edge by an armed one, and inside a frame by `FrameInv`; each agent moves between these. -/

namespace Sys2Proof.Machine

/-! ### The invariant by framer state -/

/-- An idle framer meets the invariant of executions when its watchdog is 0 and the queue is empty. -/
theorem execInv_of_idle (s : State) (hs : RangeInv s) (hm : s.inputMode = false) (ht : s.timeoutCounter.toNat = 0)
    (hq : s.queueEmpty = true) : ExecInv s :=
  { hs with
    accumulating := fun h => by
      rw [(framerState_eq_idle s).mpr hm] at h
      cases h
    idle := fun _ => ⟨ht, hq⟩ }

/-- An armed framer meets the invariant of executions (R201). -/
theorem execInv_of_armed (s : State) (hs : RangeInv s) (h : s.framerState = .armed) : ExecInv s :=
  { hs with
    accumulating := fun ha => by
      rw [h] at ha
      cases ha
    idle := fun hi => by
      rw [h] at hi
      cases hi }

/-- What holds inside a frame, from `FR.BEGIN` until the frame ends: the watchdog runs, and the dot mask has no bit
beyond the digits accepted. Room for another digit is not part of it: the last digit fills the frame before `FR.END`
runs (R207). -/
structure FrameInv (s : State) : Prop extends RangeInv s where
  mode : s.inputMode = true
  loaded : s.timeoutCounter.toNat ≠ 0
  dots_below : s.displayDotmask.toNat < 2 ^ s.digitCount.toNat

/-- Inside a frame the framer is accumulating (R201). -/
theorem FrameInv.framerState_eq {s : State} (hs : FrameInv s) : s.framerState = .accumulating :=
  (framerState_eq_accumulating s).mpr ⟨hs.mode, fun h => hs.loaded (by simp [h])⟩

/-- A frame with room meets the invariant of executions. -/
theorem FrameInv.execInv {s : State} (hs : FrameInv s) (hroom : s.digitCount.toNat < Config.N) : ExecInv s :=
  { hs.toRangeInv with
    accumulating := fun _ => ⟨hs.value_lt, hs.dots_below, hroom⟩
    idle := fun h => by
      rw [hs.framerState_eq] at h
      cases h }

/-- Recording a result keeps the invariant of executions. -/
theorem returning_execInv (r : Result) (s : State) (hs : ExecInv s) : ExecInv (s.returning r) := { hs with }

/-! ### Reset -/

/-- The reset values meet the invariant of executions, whatever the cells, the pending words and the count of draws. -/
theorem execInv_of_reset (cells : CellStore) (commands : List CommandWord) (drawn : Nat) :
    ExecInv { State.reset with q := cells, commands := commands, drawn := drawn } :=
  execInv_of_idle _ { rangeInv_reset with } rfl rfl rfl

theorem coreRst_execInv (s : State) : ExecInv (coreRst s) := by
  rw [coreRst_eq]
  exact execInv_of_reset _ _ _

/-- Settles O46. -/
theorem resetMeetsTheInvariants : Obligations.ResetMeetsTheInvariants := fun cells => execInv_of_reset cells [] 0

/-! ### The handlers -/

theorem irqTick_execInv (s : State) (hs : ExecInv s) : ExecInv (irqTick s) := { hs with }

/-- The announce edge arms the framer, whose watchdog was 0 in display mode; in input mode an edge touches the queue
only (R231). -/
theorem irqEdge_execInv (level : Bit) (s : State) (hs : ExecInv s) : ExecInv (irqEdge level s) := by
  have hrange := irqEdge_rangeInv level s hs.toRangeInv
  rcases irqEdge_cases level s with ⟨hm, he⟩ | ⟨hm, he⟩ <;> rw [he] at hrange ⊢
  · rw [bqWrite_eq] at hrange ⊢
    exact
      { hrange with
        accumulating := hs.accumulating
        idle := fun h => by
          rw [framerState_eq_idle] at h
          exact absurd (hm.symm.trans h) (by decide) }
  · have hzero := (hs.idle ((framerState_eq_idle s).mpr hm)).1
    exact execInv_of_armed _ hrange
      ((framerState_eq_armed _).mpr ⟨rfl, BitVec.eq_of_toNat_eq hzero⟩)

/-! ### A display-mode iteration -/

@[simp] theorem mxStep_writeIndex (s : State) : (mxStep s).writeIndex = s.writeIndex := by
  rw [mxStep_frame]
@[simp] theorem mxStep_readIndex (s : State) : (mxStep s).readIndex = s.readIndex := by
  rw [mxStep_frame]
@[simp] theorem mxStep_timeoutCounter (s : State) : (mxStep s).timeoutCounter = s.timeoutCounter := by
  rw [mxStep_frame]
@[simp] theorem mxStep_inputMode (s : State) : (mxStep s).inputMode = s.inputMode := by
  rw [mxStep_frame]

/-- `MX.STEP` leaves the queue as empty as it was. -/
@[simp] theorem mxStep_queueEmpty (s : State) : (mxStep s).queueEmpty = s.queueEmpty := by
  rw [State.queueEmpty, mxStep_writeIndex, mxStep_readIndex, State.queueEmpty]

theorem mxStep_execInv (s : State) (hs : ExecInv s) (hm : s.inputMode = false) : ExecInv (mxStep s) := by
  obtain ⟨hzero, hempty⟩ := hs.idle ((framerState_eq_idle s).mpr hm)
  exact execInv_of_idle _ (mxStep_rangeInv s hs.toRangeInv) (by rwa [mxStep_inputMode])
    (by rwa [mxStep_timeoutCounter]) (by rwa [mxStep_queueEmpty])

/-! ### An input-mode iteration -/

/-- An accepted digit sets no dot bit beyond its own position (R66, R204). -/
theorem acceptDigit_dots_below (g : Group) (s : State) (hs : RangeInv s) (hroom : s.digitCount.toNat < Config.N)
    (hg : groupVal g < 10) (hdots : s.displayDotmask.toNat < 2 ^ s.digitCount.toNat) :
    (acceptDigit g s).displayDotmask.toNat < 2 ^ (acceptDigit g s).digitCount.toNat := by
  have hN : s.digitCount.toNat < 4 := hroom
  have hwider : s.displayDotmask.toNat < 2 ^ (s.digitCount.toNat + 1) :=
    hdots.trans_le (Nat.pow_le_pow_right (by omega) (by omega))
  obtain ⟨-, -, hcount⟩ := acceptDigit_numbers g s hroom hs.value_lt hg
  rw [hcount, acceptDigit_displayDotmask]
  split
  · exact setMaskBit_lt _ _ _ (by omega) (by omega) hwider
  · exact hwider

/-- `FR.PUSH` sets no dot bit beyond the digits accepted. -/
theorem frPush_dots_below (g : Group) (s t : State) (hs : RangeInv s)
    (hdots : s.displayDotmask.toNat < 2 ^ s.digitCount.toNat) (h : frPush g s = .ok t) :
    t.displayDotmask.toNat < 2 ^ t.digitCount.toNat := by
  rcases frPush_cases g s with ⟨-, hp⟩ | ⟨-, -, hp⟩ | ⟨hroom, hg, hp⟩ <;> rw [hp] at h <;> cases h
  · exact hdots
  · exact acceptDigit_dots_below g s hs hroom hg hdots

/-- `FR.BIT` sets no dot bit beyond the digits accepted. -/
theorem frBit_dots_below (b : Bit) (s t : State) (hs : RangeInv s)
    (hdots : s.displayDotmask.toNat < 2 ^ s.digitCount.toNat) (h : frBit b s = .ok t) :
    t.displayDotmask.toNat < 2 ^ t.digitCount.toNat := by
  rcases Nat.lt_or_eq_of_le hs.pos_le with hlt | heq
  · rw [frBit_of_lt b s hlt] at h
    cases h
    exact hdots
  · rw [frBit_flush b s heq] at h
    exact frPush_dots_below _ _ t (clearGroup_rangeInv s hs) hdots h

/-- `FR.BIT` stays inside the frame. -/
theorem frBit_frameInv (b : Bit) (s t : State) (hs : FrameInv s) (h : frBit b s = .ok t) : FrameInv t :=
  { frBit_rangeInv b s t hs.toRangeInv h with
    mode := by
      rw [frBit_frame b s t h]
      exact hs.mode
    loaded := by
      rw [frBit_frame b s t h]
      exact hs.loaded
    dots_below := frBit_dots_below b s t hs.toRangeInv hs.dots_below h }

/-- A fresh frame in input mode (R202). -/
theorem frBegin_frameInv (s : State) (hs : RangeInv s) (hm : s.inputMode = true) : FrameInv (frBegin s) :=
  { frBegin_rangeInv s hs with
    mode := hm
    loaded := by rw [frBegin_timeoutCounter]; decide
    dots_below := by simp }

/-- An input-mode iteration drains the queue inside a frame with room: the one in progress, or else a fresh one
(R207). -/
theorem frIter_start (s : State) (hs : ExecInv s) (hm : s.inputMode = true) :
    FrameInv (if s.timeoutCounter = 0 then frBegin s else s) ∧
      (if s.timeoutCounter = 0 then frBegin s else s).digitCount.toNat < Config.N := by
  split
  next => exact ⟨frBegin_frameInv s hs.toRangeInv hm, by rw [frBegin_digitCount]; decide⟩
  next hne =>
    obtain ⟨-, hdots, hroom⟩ := hs.accumulating ((framerState_eq_accumulating s).mpr ⟨hm, hne⟩)
    exact ⟨{ hs.toRangeInv with
      mode := hm, loaded := fun h => hne (BitVec.eq_of_toNat_eq h), dots_below := hdots }, hroom⟩

/-- `FR.END` brings a state in range to an idle framer with nothing queued (R205). -/
theorem frEnd_execInv (s : State) (hs : RangeInv s) : ExecInv (frEnd s) :=
  execInv_of_idle _ (frEnd_rangeInv s hs) rfl rfl rfl

/-- So does the abort of a frame (R206). -/
theorem abortFrame_execInv (s : State) (hs : RangeInv s) : ExecInv (abortFrame s) :=
  execInv_of_idle _ (abortFrame_rangeInv s hs) rfl rfl rfl

/-- A watchdog tick inside a frame with room completes: the frame goes on, or it is aborted (R206). -/
theorem frTmo_execInv (s : State) (hs : FrameInv s) (hroom : s.digitCount.toNat < Config.N) :
    ∃ t, frTmo s = .ok t ∧ ExecInv t := by
  rcases frTmo_cases s with ⟨hzero, -⟩ | ⟨-, ht⟩ | ⟨htwo, ht⟩
  · exact absurd hzero hs.loaded
  · exact ⟨_, ht, abortFrame_execInv _ { hs.toRangeInv with timeout_le := by simp }⟩
  · have hcount : FrameInv { s with timeoutCounter := s.timeoutCounter - 1 } :=
      { countDown_rangeInv s hs.toRangeInv htwo with
        mode := hs.mode
        loaded := by
          simp only []
          bv_omega
        dots_below := hs.dots_below }
    exact ⟨_, ht, hcount.execInv hroom⟩

/-- The time-out bookkeeping of a frame with room completes (R207). -/
theorem bookkeeping_execInv (s : State) (hs : FrameInv s) (hroom : s.digitCount.toNat < Config.N) :
    ∃ t, bookkeeping s = .ok t ∧ ExecInv t := by
  unfold bookkeeping
  split
  · exact frTmo_execInv _ { hs with } hroom
  · exact ⟨s, rfl, hs.execInv hroom⟩

/-- The drain of a frame with room completes: it ends the frame, or leaves a frame with room (R207). -/
theorem drain_frameInv (s : State) (hs : FrameInv s) (hroom : s.digitCount.toNat < Config.N) :
    (∃ u, FrameInv u ∧ drain Config.qcap s = .ok (.completed, frEnd u)) ∨
    (∃ u, FrameInv u ∧ u.digitCount.toNat < Config.N ∧ drain Config.qcap s = .ok (.emptied, u)) := by
  obtain ⟨e, t, hdrain, hemptied⟩ :=
    drain_completes Config.qcap s hs.toRangeInv hroom (Nat.le_of_lt (occupancy_lt s))
  rcases drain_induction FrameInv (fun _ hu => { hu with }) frBit_frameInv _ s e t hs hdrain with
    ⟨rfl, ht⟩ | ⟨rfl, u, hu, -, rfl⟩
  · exact .inr ⟨t, ht, (hemptied rfl).2, hdrain⟩
  · exact .inl ⟨u, hu, hdrain⟩

/-- An input-mode iteration completes in every state of an execution (R207, R235). -/
theorem frIter_execInv (s : State) (hs : ExecInv s) (hm : s.inputMode = true) :
    ∃ t, frIter s = .ok t ∧ ExecInv t := by
  obtain ⟨hstart, hroom⟩ := frIter_start s hs hm
  rcases drain_frameInv _ hstart hroom with ⟨u, hu, hdrain⟩ | ⟨u, hu, huroom, hdrain⟩
  · exact ⟨frEnd u, by rw [frIter, if_pos hm, hdrain], frEnd_execInv u hu.toRangeInv⟩
  · obtain ⟨t, hbook, ht⟩ := bookkeeping_execInv u hu huroom
    exact ⟨t, by rw [frIter, if_pos hm, hdrain, ← hbook], ht⟩

/-! ### Every agent, every execution -/

/-- An iteration completes in every state of an execution, in either mode (R233, R235). -/
theorem coreIter_execInv (s : State) (hs : ExecInv s) : ∃ t, coreIter s = .ok t ∧ ExecInv t := by
  cases hm : s.inputMode with
  | true =>
    obtain ⟨t, hiter, ht⟩ := frIter_execInv s hs hm
    exact ⟨t, by simp [coreIter, hm, hiter], ht⟩
  | false => exact ⟨mxStep s, by simp [coreIter, hm], mxStep_execInv s hs hm⟩

/-- `CORE.ITER` executes as its block operation, settled into an answer. -/
theorem exec_coreIter_eq_settle (s : State) : exec .coreIter s = settle (coreIter s) := rfl

/-- Settles O48: the handlers and the reset always complete, and an iteration does in every state of an execution. -/
theorem agentStepsCompleteAndKeepTheInvariant : Obligations.AgentStepsCompleteAndKeepTheInvariant := by
  intro s e hs
  cases e with
  | edge level => exact ⟨_, rfl, returning_execInv _ _ (irqEdge_execInv level s hs)⟩
  | tick => exact ⟨_, rfl, returning_execInv _ _ (irqTick_execInv s hs)⟩
  | iteration =>
    obtain ⟨t, hiter, ht⟩ := coreIter_execInv s hs
    exact ⟨_, by rw [handlerOf, exec_coreIter_eq_settle, hiter, settle_ok], returning_execInv _ t ht⟩
  | reset => exact ⟨_, rfl, returning_execInv _ _ (coreRst_execInv s)⟩

/-- Settles O49, by induction on the execution: the reset state meets the invariant, and so does the one next state that
the step of an agent can have. -/
theorem reachableStatesMeetTheInvariants : Obligations.ReachableStatesMeetTheInvariants := by
  intro s hs
  induction hs with
  | reset cells => exact resetMeetsTheInvariants cells
  | step e s t _ hexec ih =>
    obtain ⟨u, hu, hinv⟩ := agentStepsCompleteAndKeepTheInvariant s e ih
    cases hexec.symm.trans hu
    exact hinv

end Sys2Proof.Machine
end

section
/-! Which agent writes which element (10_state.md R45), and the table of reset values (R47). -/

namespace Sys2Proof.Machine

/-! ### The handlers -/

/-- An edge event can change the cells, `write_index` and the ghost log, and only sets `input_mode` (R231). -/
theorem irqEdge_frame (level : Bit) (s : State) :
    irqEdge level s = { s with
      q := (irqEdge level s).q, writeIndex := (irqEdge level s).writeIndex, inputMode := true,
      errorLog := (irqEdge level s).errorLog } := by
  rcases irqEdge_cases level s with ⟨hm, he⟩ | ⟨-, he⟩ <;> rw [he]
  rw [bqWrite_eq, ← hm]

/-! ### The main loop -/

/-- `t` differs from `s` in the framer's registers, the number being composed, `read_index` and the ghost log at most:
what the drain of an input-mode iteration may change before the frame ends (R207). -/
def OnlyFramerChanged (s t : State) : Prop :=
  t = { s with
    readIndex := t.readIndex, serInput := t.serInput, serInputPos := t.serInputPos, digitCount := t.digitCount,
    displayValue := t.displayValue, displayDotmask := t.displayDotmask, timeoutCounter := t.timeoutCounter,
    errorLog := t.errorLog }

theorem OnlyFramerChanged.refl (s : State) : OnlyFramerChanged s s := rfl

theorem OnlyFramerChanged.trans {s t u : State} (hst : OnlyFramerChanged s t) (htu : OnlyFramerChanged t u) :
    OnlyFramerChanged s u := by
  unfold OnlyFramerChanged at hst htu ⊢
  rw [hst] at htu
  exact htu

theorem frBegin_onlyFramerChanged (s : State) : OnlyFramerChanged s (frBegin s) := rfl

theorem frBit_onlyFramerChanged (b : Bit) (s t : State) (h : frBit b s = .ok t) : OnlyFramerChanged s t := by
  unfold OnlyFramerChanged
  rw [frBit_frame b s t h]

/-- The drain loop changes the framer only, until the `FR.END` of a completed frame (R207). -/
theorem drain_onlyFramerChanged (k : Nat) (s : State) (e : DrainEnd) (t : State) (h : drain k s = .ok (e, t)) :
    (e = .emptied ∧ OnlyFramerChanged s t) ∨ (e = .completed ∧ ∃ u, OnlyFramerChanged s u ∧ t = frEnd u) := by
  rcases drain_induction (OnlyFramerChanged s) (fun u hu => hu.trans rfl)
      (fun b u v hu hb => hu.trans (frBit_onlyFramerChanged b u v hb)) k s e t (.refl s) h with
    hemptied | ⟨he, u, hu, -, ht⟩
  · exact .inl hemptied
  · exact .inr ⟨he, u, hu, ht⟩

/-- The main loop's part of R45: it writes no cell, only clears the two flags, writes `write_index` only as it leaves
input mode, and leaves the pending words and the count of draws. -/
structure MainLoopFrame (s t : State) : Prop where
  cells : t.q = s.q
  mode : t.inputMode = true → s.inputMode = true
  refresh : t.refreshNeeded = true → s.refreshNeeded = true
  leaves : t.writeIndex ≠ s.writeIndex → s.inputMode = true ∧ t.inputMode = false
  commands : t.commands = s.commands
  drawn : t.drawn = s.drawn

/-- Recording a result writes none of these. -/
theorem returning_mainLoopFrame (r : Result) (s t : State) (h : MainLoopFrame s t) : MainLoopFrame s (t.returning r) :=
  { h with }

theorem OnlyFramerChanged.mainLoopFrame {s t : State} (h : OnlyFramerChanged s t) : MainLoopFrame s t := by
  rw [h]
  exact ⟨rfl, id, id, fun hw => absurd rfl hw, rfl, rfl⟩

/-- Consuming the tick clears a flag. -/
theorem clearTick_mainLoopFrame (s t : State) (h : MainLoopFrame s t) :
    MainLoopFrame s { t with refreshNeeded := false } :=
  { h with refresh := fun hr => by cases hr }

/-- `FR.END` leaves input mode, so it may reset the queue (R205). -/
theorem frEnd_mainLoopFrame (s t : State) (h : MainLoopFrame s t) (hm : s.inputMode = true) :
    MainLoopFrame s (frEnd t) :=
  { h with mode := fun _ => hm, leaves := fun _ => ⟨hm, rfl⟩ }

/-- So does the abort of a frame (R206). -/
theorem abortFrame_mainLoopFrame (s t : State) (h : MainLoopFrame s t) (hm : s.inputMode = true) :
    MainLoopFrame s (abortFrame t) :=
  { h with mode := fun _ => hm, leaves := fun _ => ⟨hm, rfl⟩ }

theorem frTmo_mainLoopFrame (s t u : State) (h : MainLoopFrame s t) (hm : s.inputMode = true)
    (ht : frTmo t = .ok u) : MainLoopFrame s u := by
  rcases frTmo_cases t with ⟨-, hu⟩ | ⟨-, hu⟩ | ⟨-, hu⟩ <;> rw [hu] at ht <;> cases ht
  · exact abortFrame_mainLoopFrame s _ { h with } hm
  · exact { h with }

/-- An input-mode iteration: the drain changes the framer only, and leaving input mode is the work of `FR.END`, which a
completed frame or the watchdog runs (R207). -/
theorem frIter_mainLoopFrame (s t : State) (h : frIter s = .ok t) : MainLoopFrame s t := by
  have hstart : OnlyFramerChanged s (if s.timeoutCounter = 0 then frBegin s else s) := by
    split
    · exact frBegin_onlyFramerChanged s
    · exact .refl s
  obtain ⟨hm, hdrain | ⟨u, hdrain, hbook⟩⟩ := frIter_cases s t h
  · obtain ⟨he, -⟩ | ⟨-, u, hu, rfl⟩ := drain_onlyFramerChanged _ _ _ t hdrain
    · cases he
    · exact frEnd_mainLoopFrame s u (hstart.trans hu).mainLoopFrame hm
  · obtain ⟨-, hu⟩ | ⟨he, -⟩ := drain_onlyFramerChanged _ _ _ u hdrain
    · have hframe := (hstart.trans hu).mainLoopFrame
      rcases hbook with ⟨-, rfl⟩ | ⟨-, htmo⟩
      · exact hframe
      · exact frTmo_mainLoopFrame s _ t (clearTick_mainLoopFrame s u hframe) hm htmo
    · cases he

@[simp] theorem srStep_refreshNeeded (s : State) : (srStep s).2.refreshNeeded = s.refreshNeeded := by
  rw [srStep_frame]
@[simp] theorem mxNext_refreshNeeded (s : State) : (mxNext s).refreshNeeded = s.refreshNeeded := by
  rw [mxNext_frame]

/-- At `Finished` a pending tick is consumed, so none is pending afterwards (R182). -/
theorem mxFinished_refreshNeeded (s : State) : (mxFinished s).refreshNeeded = false := by
  unfold mxFinished
  simp only []
  split
  next => rw [mxNext_refreshNeeded]
  next hno => exact Bool.eq_false_iff.mpr hno

/-- `MX.STEP` sets no tick (R182). -/
theorem mxStep_refreshNeeded (s : State) (h : (mxStep s).refreshNeeded = true) : s.refreshNeeded = true := by
  unfold mxStep at h
  split at h
  case h_1 =>
    rw [mxFinished_refreshNeeded] at h
    cases h
  all_goals rwa [srStep_refreshNeeded] at h

theorem mxStep_mainLoopFrame (s : State) : MainLoopFrame s (mxStep s) where
  cells := by rw [mxStep_frame]
  mode := by rw [mxStep_inputMode]; exact id
  refresh := mxStep_refreshNeeded s
  leaves hw := absurd (mxStep_writeIndex s) hw
  commands := by rw [mxStep_frame]
  drawn := by rw [mxStep_frame]

theorem coreIter_mainLoopFrame (s t : State) (h : coreIter s = .ok t) : MainLoopFrame s t := by
  rcases coreIter_cases s t h with ⟨-, hiter⟩ | ⟨-, rfl⟩
  · exact frIter_mainLoopFrame s t hiter
  · exact mxStep_mainLoopFrame s

/-- Settles O45: the frames of the edge handler, the tick handler and the main loop. -/
theorem everyFieldHasItsOneWriter : Obligations.EveryFieldHasItsOneWriter := by
  intro s t
  refine ⟨fun level h => ?_, fun h => ?_, fun h => ?_⟩
  · cases h
    rw [irqEdge_frame]
    rfl
  · cases h
    rfl
  · obtain ⟨u, hu, rfl⟩ := settle_eq_next _ t h
    obtain ⟨hcells, hmode, hrefresh, hleaves, hcommands, hdrawn⟩ :=
      returning_mainLoopFrame .nothing s u (coreIter_mainLoopFrame s u hu)
    exact ⟨hcells, hmode, hrefresh, hleaves, hcommands, hdrawn⟩

/-! ### The reset values -/

/-- Settles O11: the reset state is a literal. -/
theorem resetStateHoldsTheResetTable : Obligations.ResetStateHoldsTheResetTable := by
  unfold Obligations.ResetStateHoldsTheResetTable
  decide

/-- Settles O9: what `CORE.RST` leaves differs from the reset state in the cells and the model's own fields only. -/
theorem coreRstLeavesTheResetTable : Obligations.CoreRstLeavesTheResetTable := by
  refine ⟨by decide, fun s => ⟨(coreRst s).returning .nothing, rfl, ?_⟩⟩
  rw [coreRst_eq]
  and_intros <;> rfl

end Sys2Proof.Machine
end

section
/-! Scripts (30_encoding.md R111): a script runs operation by operation. -/

namespace Sys2Proof.Machine

/-- A script whose first operation completes goes on from its next state. -/
theorem runScript_cons_of_next (i : Instr) (rest : List Instr) (s t : State) (h : exec i s = .next t) :
    runScript (i :: rest) s = runScript rest t := by
  rw [runScript, h]

/-- A script whose first part completes goes on with its second part. -/
theorem runScript_append_of_next (first second : List Instr) (s t : State) (h : runScript first s = .next t) :
    runScript (first ++ second) s = runScript second t := by
  induction first generalizing s with
  | nil =>
    cases h
    rfl
  | cons i rest ih =>
    rw [List.cons_append]
    cases hi : exec i s with
    | next u =>
      rw [runScript_cons_of_next _ _ s u hi] at h ⊢
      exact ih u h
    | fault f => simp [runScript, hi] at h
    | refused r => simp [runScript, hi] at h

end Sys2Proof.Machine
end

section
/-! The step of an agent (20_memory.md R75), the queue as a first-in first-out list (R76), and the operations that may be
repeated (R72). -/

namespace Sys2Proof.Machine

/-- With no word pending, fetching draws an agent and takes its handler (R75; log entry 1). -/
theorem fetch_of_no_command (s : State) (h : s.commands = []) :
    fetch s = .ok (handlerOf (Config.schedule s.drawn), { s with drawn := s.drawn + 1 }) := by
  simp [fetch, h]

/-- Settles O7: the agent is the one drawn. -/
theorem stepWithoutCommandRunsOneAgent : Obligations.StepWithoutCommandRunsOneAgent := by
  intro s h
  exact ⟨Config.schedule s.drawn, by rw [step, fetch_of_no_command s h]⟩

/-- Recording a result leaves the unread bits. -/
@[simp] theorem returning_unread (r : Result) (s : State) : (s.returning r).unread = s.unread :=
  unread_congr _ _ rfl rfl rfl

/-- Settles O16: a write appends to the unread bits, or empties them at occupancy 15; a read takes their head. -/
theorem unreadBitsAreFirstInFirstOut : Obligations.UnreadBitsAreFirstInFirstOut := by
  intro s bit
  obtain ⟨hresult, htail⟩ := bqRead_unread s
  refine ⟨⟨_, rfl, ?_⟩, ⟨_, rfl, ?_, ?_⟩⟩
  · rw [returning_unread, bqWrite_unread, length_unread]
  · rw [returning_unread, htail]
  · rw [State.returning_result, hresult]

/-- Settles O59: each of the five operations assigns values that do not depend on what it overwrites, so by definition
the second finds what it would leave. -/
theorem secondResetLoadBeginOrEndInARowChangesNothing :
    Obligations.SecondResetLoadBeginOrEndInARowChangesNothing := by
  intro s
  refine ⟨⟨(bqReset s).returning .nothing, ?_⟩, fun value => ⟨(srLoad value s).returning .nothing, ?_⟩,
    ⟨(frBegin s).returning .nothing, ?_⟩, ⟨(frEnd s).returning .nothing, ?_⟩, ⟨(coreRst s).returning .nothing, ?_⟩⟩ <;>
  exact ⟨rfl, rfl, rfl⟩

end Sys2Proof.Machine
end

section
/-! The byte on the wire (41_shift_register_bit_banger.md R144): two calls of `SR.STEP` send one bit, so the state after
`SR.LOAD` and `2k` calls is known outright for every `k` up to 8. -/

namespace Sys2Proof.Machine

/-- The events of one bit: the fall of the clock, the data, the rise of the clock (R142, R144). -/
def bitEvents (b : Bit) : List PinEvent := [⟨.clk, false⟩, ⟨.ser, b⟩, ⟨.clk, true⟩]

/-- The events of the first `k` bits of a byte, most significant first. -/
def firstBitEvents (value : Byte) : Nat → List PinEvent
  | 0 => []
  | k + 1 => firstBitEvents value k ++ bitEvents (value.getLsbD (7 - k))

/-- All eight bits are the byte of the wire format (item 3 of R94). -/
theorem firstBitEvents_eight (value : Byte) : firstBitEvents value 8 = byteEvents value := rfl

/-- The pins after `k` bits: untouched by `SR.LOAD` (R141), then the clock high and the data at the last bit sent. -/
def pinsAfterBits (value : Byte) (o : Pins) : Nat → Pins
  | 0 => o
  | k + 1 => { o with clk := some true, ser := some (value.getLsbD (7 - k)) }

theorem pinsAfterBits_succ (value : Byte) (o : Pins) (k : Nat) :
    pinsAfterBits value o (k + 1) = { o with clk := some true, ser := some (value.getLsbD (7 - k)) } := rfl

/-- Driving a whole bit leaves nothing of what the bits before it left. -/
theorem pinsAfterBits_drive (value : Byte) (o : Pins) (k : Nat) (b : Bit) :
    (((pinsAfterBits value o k).drive .clk false).drive .ser b).drive .clk true =
      { o with clk := some true, ser := some b } := by
  cases k <;> rfl

/-- The state after `SR.LOAD` of the byte and the `2k` calls that send its first `k` bits. -/
def afterBits (value : Byte) (s : State) (k : Nat) : State :=
  { s with
    srValue := value
    srBitIndex := BitVec.ofNat 4 k
    srPhase := .lowPending
    out := pinsAfterBits value s.out k
    trace := s.trace ++ firstBitEvents value k }

/-- No bit is sent by the load itself (R141). -/
theorem srLoad_eq_afterBits (value : Byte) (s : State) : srLoad value s = afterBits value s 0 := by
  simp [srLoad, afterBits, pinsAfterBits, firstBitEvents]

/-- The cursor counts the bits sent. -/
theorem afterBits_srBitIndex (value : Byte) (s : State) (k : Nat) (hk : k ≤ 8) :
    (afterBits value s k).srBitIndex.toNat = k :=
  Nat.mod_eq_of_lt (show k < 2 ^ 4 by omega)

/-- The two phases of one clock send the next bit (R142). -/
theorem srHighPhase_srLowPhase_afterBits (value : Byte) (s : State) (k : Nat) (hk : k < 8) (r r' : Result) :
    srHighPhase ((srLowPhase ((afterBits value s k).returning r)).returning r') =
      (afterBits value s (k + 1)).returning r' := by
  have hindex : (BitVec.ofNat 4 k).toNat = k := afterBits_srBitIndex value s k (by omega)
  have hbit : dataBit value k = value.getLsbD (7 - k) := dataBit_of_le _ _ (by omega)
  have hnext : fit 4 (k + 1) = BitVec.ofNat 4 (k + 1) := fit_of_lt _ _ (by omega)
  simp only [srHighPhase, srLowPhase, State.pinWrite, State.returning, afterBits, hindex, hbit, hnext,
    pinsAfterBits_drive, pinsAfterBits_succ, firstBitEvents, bitEvents, List.append_assoc, List.cons_append,
    List.nil_append]

/-- A call with the low phase pending runs it (R142). -/
theorem exec_srStep_of_low (s : State) (h : s.srBitIndex.toNat ≠ 8) (hp : s.srPhase = .lowPending) :
    ∃ r, exec .srStep s = .next ((srLowPhase s).returning r) :=
  ⟨_, by rw [exec, execSrStep, srStep_of_low s h hp, answer_eq]⟩

/-- A call with the high phase pending runs it (R142). -/
theorem exec_srStep_of_high (s : State) (h : s.srBitIndex.toNat < 8) (hp : s.srPhase = .highPending) :
    ∃ r, exec .srStep s = .next ((srHighPhase s).returning r) :=
  ⟨_, by rw [exec, execSrStep, srStep_of_high s h hp, answer_eq]⟩

/-- Two calls send one bit, whatever the call before them returned (R144). -/
theorem runScript_two_srStep (value : Byte) (s : State) (k : Nat) (hk : k < 8) (r : Result) :
    ∃ r', runScript [.srStep, .srStep] ((afterBits value s k).returning r) =
      .next ((afterBits value s (k + 1)).returning r') := by
  have hindex : ((afterBits value s k).returning r).srBitIndex.toNat = k := afterBits_srBitIndex value s k (by omega)
  obtain ⟨r₁, hlow⟩ := exec_srStep_of_low ((afterBits value s k).returning r) (by omega) rfl
  obtain ⟨r₂, hhigh⟩ := exec_srStep_of_high ((srLowPhase ((afterBits value s k).returning r)).returning r₁)
    (show ((afterBits value s k).returning r).srBitIndex.toNat < 8 by omega) rfl
  refine ⟨r₂, ?_⟩
  rw [runScript_cons_of_next _ _ _ _ hlow, runScript_cons_of_next _ _ _ _ hhigh,
    srHighPhase_srLowPhase_afterBits value s k hk]
  rfl

/-- After `SR.LOAD` and `2k` calls the first `k` bits are sent (R144). -/
theorem runScript_afterBits (value : Byte) (s : State) (k : Nat) (hk : k ≤ 8) :
    ∃ r, runScript (.srLoad value :: List.replicate (2 * k) .srStep) s =
      .next ((afterBits value s k).returning r) := by
  induction k with
  | zero => exact ⟨.nothing, by rw [← srLoad_eq_afterBits]; rfl⟩
  | succ k ih =>
    obtain ⟨r, hfirst⟩ := ih (by omega)
    obtain ⟨r', hnext⟩ := runScript_two_srStep value s k hk r
    refine ⟨r', ?_⟩
    rw [Nat.mul_succ, List.replicate_add, ← List.cons_append, runScript_append_of_next _ _ _ _ hfirst]
    exact hnext

/-- Further calls of a finished sender change nothing but the result (R145). -/
theorem runScript_srStep_of_finished (n : Nat) (s : State) (h : s.srBitIndex.toNat = 8) :
    ∃ r, runScript (List.replicate n .srStep) s = .next (s.returning r) := by
  induction n generalizing s with
  | zero => exact ⟨s.result, rfl⟩
  | succ n ih =>
    obtain ⟨r, hr⟩ := ih (s.returning (.status .finished)) h
    have hcall : exec .srStep s = .next (s.returning (.status .finished)) := by
      rw [exec, execSrStep, srStep_of_finished s h, answer_eq]
    exact ⟨r, by rw [List.replicate_succ, runScript_cons_of_next _ _ _ _ hcall, hr]; rfl⟩

/-- Settles O24: the byte after sixteen calls is all eight bits, and then the sender is finished. -/
theorem byteIsSentMostSignificantBitFirst : Obligations.ByteIsSentMostSignificantBitFirst := by
  intro s value more
  obtain ⟨r, hsent⟩ := runScript_afterBits value s 8 le_rfl
  obtain ⟨r', hlater⟩ := runScript_srStep_of_finished more ((afterBits value s 8).returning r)
    (afterBits_srBitIndex value s 8 le_rfl)
  refine ⟨((afterBits value s 8).returning r).returning r', ?_, ?_⟩
  · rw [show 16 + more = 2 * 8 + more from rfl, List.replicate_add, ← List.cons_append,
      runScript_append_of_next _ _ _ _ hsent, hlater]
  · rw [← firstBitEvents_eight]
    rfl

end Sys2Proof.Machine
end

section
/-! Digits in their places (20_memory.md R66, 44_serial_input_framer.md R209): the number and the dot mask of a list of
digits, and the framer that holds them. -/

namespace Sys2Proof.Machine

/-! ### The number of a list of bits -/

/-- The number whose bit `k` is the `k`-th of the list: a part of a group as it arrives, least significant bit first
(R65, R101). -/
def bitsValue : List Bit → Nat
  | [] => 0
  | b :: rest => b.toNat + 2 * bitsValue rest

/-- One more bit stands above the others. -/
theorem bitsValue_concat (bits : List Bit) (b : Bit) :
    bitsValue (bits ++ [b]) = bitsValue bits + b.toNat * 2 ^ bits.length := by
  induction bits with
  | nil => simp [bitsValue]
  | cons c rest ih =>
    rw [List.cons_append, bitsValue, bitsValue, ih, List.length_cons]
    ring

/-- The bits bound the number. -/
theorem bitsValue_lt (bits : List Bit) : bitsValue bits < 2 ^ bits.length := by
  induction bits with
  | nil => simp [bitsValue]
  | cons c rest ih =>
    have hc := Bool.toNat_le c
    rw [bitsValue, List.length_cons, Nat.pow_succ]
    omega

/-- Each bit is read back from the number. -/
theorem testBit_bitsValue (bits : List Bit) (p : Nat) (b : Bit) (hp : bits[p]? = some b) :
    (bitsValue bits).testBit p = b := by
  induction bits generalizing p with
  | nil => simp at hp
  | cons c rest ih =>
    have hc := Bool.toNat_le c
    rw [bitsValue]
    cases p with
    | zero =>
      cases hp
      cases b <;> simp
    | succ p =>
      have hshift : (c.toNat + 2 * bitsValue rest) / 2 = bitsValue rest := by omega
      rw [Nat.testBit_succ, hshift]
      exact ih p hp

/-! ### The number and the dot mask of a list of digits -/

/-- The dot mask is the number of the flags (R66). -/
theorem dotsOfDigits_eq (digits : List (Nibble × Bit)) : dotsOfDigits digits = bitsValue (digits.map Prod.snd) := by
  induction digits with
  | nil => rfl
  | cons d rest ih => rw [dotsOfDigits, ih, List.map_cons, bitsValue]

/-- One more digit stands in the next decimal place (R66, R209). -/
theorem valueOfDigits_concat (digits : List (Nibble × Bit)) (d : Nibble × Bit) :
    valueOfDigits (digits ++ [d]) = valueOfDigits digits + d.1.toNat * 10 ^ digits.length := by
  induction digits with
  | nil => simp [valueOfDigits]
  | cons e rest ih =>
    rw [List.cons_append, valueOfDigits, valueOfDigits, ih, List.length_cons]
    ring

/-- One more flag stands at the next bit (R66). -/
theorem dotsOfDigits_concat (digits : List (Nibble × Bit)) (d : Nibble × Bit) :
    dotsOfDigits (digits ++ [d]) = dotsOfDigits digits + d.2.toNat * 2 ^ digits.length := by
  rw [dotsOfDigits_eq, dotsOfDigits_eq, List.map_append, List.map_singleton, bitsValue_concat, List.length_map]

/-- Digits 0 to 9 make a number with as many decimal places. -/
theorem valueOfDigits_lt (digits : List (Nibble × Bit)) (h : ∀ d ∈ digits, d.1.toNat ≤ 9) :
    valueOfDigits digits < 10 ^ digits.length := by
  induction digits with
  | nil => simp [valueOfDigits]
  | cons e rest ih =>
    rw [List.forall_mem_cons] at h
    have hrest := ih h.2
    rw [valueOfDigits, List.length_cons, Nat.pow_succ]
    omega

/-- The flags make a mask with as many bits. -/
theorem dotsOfDigits_lt (digits : List (Nibble × Bit)) : dotsOfDigits digits < 2 ^ digits.length := by
  rw [dotsOfDigits_eq]
  exact (bitsValue_lt _).trans_eq (by rw [List.length_map])

/-- The digit in place `p` of the number is the `p`-th of the list (R66, R100). -/
theorem digit_valueOfDigits (digits : List (Nibble × Bit)) (h : ∀ d ∈ digits, d.1.toNat ≤ 9) (p : Nat)
    (d : Nibble × Bit) (hp : digits[p]? = some d) : valueOfDigits digits / 10 ^ p % 10 = d.1.toNat := by
  induction digits generalizing p with
  | nil => simp at hp
  | cons e rest ih =>
    rw [List.forall_mem_cons] at h
    rw [valueOfDigits]
    cases p with
    | zero =>
      cases hp
      omega
    | succ p =>
      have hshift : (e.1.toNat + 10 * valueOfDigits rest) / 10 = valueOfDigits rest := by omega
      rw [Nat.pow_succ', ← Nat.div_div_eq_div_mul, hshift]
      exact ih h.2 p hp

/-- Bit `p` of the mask is the flag of the `p`-th digit (R66). -/
theorem testBit_dotsOfDigits (digits : List (Nibble × Bit)) (p : Nat) (d : Nibble × Bit)
    (hp : digits[p]? = some d) : (dotsOfDigits digits).testBit p = d.2 := by
  rw [dotsOfDigits_eq]
  exact testBit_bitsValue _ p d.2 (by rw [List.getElem?_map, hp]; rfl)

/-! ### The group of a digit and its flag (R92) -/

theorem groupVal_groupOf (d : Nibble) (dot : Bit) : groupVal (groupOf d dot) = d.toNat := by
  revert d dot
  decide

theorem groupDot_groupOf (d : Nibble) (dot : Bit) : groupDot (groupOf d dot) = dot := by
  revert d dot
  decide

/-! ### The framer -/

/-- The framer holds exactly these digits: they are all decimal, and the count, the number and the dot mask are
theirs. -/
structure HoldsDigits (s : State) (digits : List (Nibble × Bit)) : Prop where
  decimal : ∀ d ∈ digits, d.1.toNat ≤ 9
  count : s.digitCount.toNat = digits.length
  value : s.displayValue.toNat = valueOfDigits digits
  dots : s.displayDotmask.toNat = dotsOfDigits digits

/-- A fresh frame holds no digit (R202). -/
theorem frBegin_holdsDigits (s : State) : HoldsDigits (frBegin s) [] :=
  ⟨by simp, rfl, rfl, rfl⟩

/-- Recording a result leaves the digits. -/
theorem HoldsDigits.returning {s : State} {digits : List (Nibble × Bit)} (h : HoldsDigits s digits) (r : Result) :
    HoldsDigits (s.returning r) digits := { h with }

/-- An accepted digit is held behind the others (R66, R204). -/
theorem HoldsDigits.acceptDigit {s : State} {digits : List (Nibble × Bit)} (h : HoldsDigits s digits)
    (hroom : digits.length < Config.N) (d : Nibble) (dot : Bit) (hd : d.toNat ≤ 9) :
    HoldsDigits (acceptDigit (groupOf d dot) s) (digits ++ [(d, dot)]) := by
  have hlen : digits.length < 4 := hroom
  have hbelow : s.displayValue.toNat < 10 ^ s.digitCount.toNat := by
    rw [h.value, h.count]
    exact valueOfDigits_lt digits h.decimal
  have hdots : s.displayDotmask.toNat < 2 ^ s.digitCount.toNat := by
    rw [h.dots, h.count]
    exact dotsOfDigits_lt digits
  obtain ⟨hvalue, -, hcount⟩ := acceptDigit_numbers (groupOf d dot) s (by rwa [h.count]) hbelow
    (by rw [groupVal_groupOf]; omega)
  constructor
  case decimal =>
    intro e he
    rcases List.mem_append.mp he with he | he
    · exact h.decimal e he
    · rw [List.mem_singleton.mp he]
      exact hd
  case count => rw [hcount, h.count, List.length_append, List.length_singleton]
  case value => rw [hvalue, groupVal_groupOf, h.value, h.count, valueOfDigits_concat]
  case dots =>
    rw [acceptDigit_displayDotmask, groupDot_groupOf, dotsOfDigits_concat, ← h.dots, ← h.count]
    cases dot with
    | true => simp [toNat_setMaskBit _ _ (show s.digitCount.toNat < 8 by rw [h.count]; omega) hdots]
    | false => simp

/-- A decimal digit is accepted while the frame has room (R204). -/
theorem frPush_groupOf (d : Nibble) (dot : Bit) (s : State) (hroom : s.digitCount.toNat < Config.N)
    (hd : d.toNat ≤ 9) : frPush (groupOf d dot) s = .ok (acceptDigit (groupOf d dot) s) := by
  rcases frPush_cases (groupOf d dot) s with ⟨hfull, -⟩ | ⟨-, hbig, -⟩ | ⟨-, -, hp⟩
  · omega
  · rw [groupVal_groupOf] at hbig
    omega
  · exact hp

/-- Pushing decimal digits into a frame with room for them makes it hold them behind those it held. -/
theorem runScript_frPush (rest : List (Nibble × Bit)) (s : State) (digits : List (Nibble × Bit))
    (h : HoldsDigits s digits) (hroom : digits.length + rest.length ≤ Config.N) (hd : ∀ d ∈ rest, d.1.toNat ≤ 9) :
    ∃ t, runScript (rest.map fun d => .frPush (groupOf d.1 d.2)) s = .next t ∧ HoldsDigits t (digits ++ rest) := by
  induction rest generalizing s digits with
  | nil => exact ⟨s, rfl, by simpa using h⟩
  | cons d rest ih =>
    rw [List.forall_mem_cons] at hd
    rw [List.length_cons] at hroom
    have hpush := frPush_groupOf d.1 d.2 s (by rw [h.count]; omega) hd.1
    have hexec : exec (.frPush (groupOf d.1 d.2)) s =
        .next ((acceptDigit (groupOf d.1 d.2) s).returning .nothing) := by
      rw [exec, execFrPush, hpush, settle_ok]
    obtain ⟨t, ht, hholds⟩ := ih _ (digits ++ [d]) ((h.acceptDigit (by omega) d.1 d.2 hd.1).returning .nothing)
      (by rw [List.length_append, List.length_singleton]; omega) hd.2
    refine ⟨t, ?_, by rwa [List.append_assoc] at hholds⟩
    rw [List.map_cons, runScript_cons_of_next _ _ _ _ hexec, ht]

/-- Settles O38: the framer holds the digits pushed after `FR.BEGIN`, and a list of digits is read back from its number
and its mask. -/
theorem acceptedDigitsStandAtTheirPositions : Obligations.AcceptedDigitsStandAtTheirPositions := by
  intro s digits hlen hd
  obtain ⟨t, ht, h⟩ :=
    runScript_frPush digits _ [] ((frBegin_holdsDigits s).returning .nothing) (by simpa using hlen) hd
  rw [List.nil_append] at h
  refine ⟨t, by rw [runScript_cons_of_next _ _ _ _ rfl, ht], h.count, h.value, ?_, h.dots, fun p d hp => ⟨?_, ?_⟩⟩
  · rw [h.value]
    exact valueOfDigits_lt digits hd
  · rw [h.value]
    exact digit_valueOfDigits digits hd p d hp
  · rw [← BitVec.testBit_toNat, h.dots]
    exact testBit_dotsOfDigits digits p d hp

end Sys2Proof.Machine
end

section
/-! A frame from end to end (44_serial_input_framer.md R211): the edges queue the bits of a group, the iteration after
them drains the queue, and the fifth bit pushes the digit. -/

namespace Sys2Proof.Machine

/-! ### The bits of a group in the framer -/

/-- The framer with these bits of a group taken, and no others (R101). -/
def partGroup (part : List Bit) (s : State) : State :=
  { s with serInput := BitVec.ofNat 5 (bitsValue part), serInputPos := BitVec.ofNat 3 part.length }

/-- Taking a bit of a group puts it behind the ones taken (R101, R203). -/
theorem takeBit_partGroup (b : Bit) (part : List Bit) (s : State) (h : part.length < 5) :
    takeBit b (partGroup part s) = partGroup (part ++ [b]) s := by
  have hpow : 2 ^ (part ++ [b]).length ≤ 2 ^ 5 :=
    Nat.pow_le_pow_right (by omega) (by rw [List.length_append, List.length_singleton]; omega)
  have hold := bitsValue_lt part
  have hnew := bitsValue_lt (part ++ [b])
  have hle : bitsValue part ≤ bitsValue (part ++ [b]) := by
    rw [bitsValue_concat]
    omega
  have hinput : (BitVec.ofNat 5 (bitsValue part)).toNat = bitsValue part := Nat.mod_eq_of_lt (by omega)
  have hpos : (BitVec.ofNat 3 part.length).toNat = part.length := Nat.mod_eq_of_lt (by omega)
  simp only [takeBit, partGroup, hinput, hpos]
  rw [placeBit_eq _ _ _ hold, ← bitsValue_concat, fit_of_lt _ _ (by omega), fit_of_lt _ _ (by omega),
    List.length_append, List.length_singleton]

/-- The five bits of a digit and its flag in wire order (R65, R91). -/
def wireBits (d : Nibble) (dot : Bit) : List Bit :=
  [d.getLsbD 0, d.getLsbD 1, d.getLsbD 2, d.getLsbD 3, dot]

theorem digitScript_eq (d : Nibble) (dot : Bit) : digitScript d dot = (wireBits d dot).map .irqEdge := rfl

/-- All five bits make the group (R92). -/
theorem ofNat_bitsValue_wireBits (d : Nibble) (dot : Bit) :
    BitVec.ofNat 5 (bitsValue (wireBits d dot)) = groupOf d dot := by
  revert d dot
  decide

/-! ### The drain of a group -/

/-- The state with the queue read up to this index. -/
def readTo (r : Nibble) (s : State) : State := { s with readIndex := r }

/-- One turn of the drain loop: the first unread bit is taken, and the `N`-th digit ends the frame (R207). -/
theorem drain_succ (k : Nat) (b : Bit) (rest : List Bit) (s u : State) (hq : s.unread = b :: rest)
    (hbit : frBit b (readTo (s.readIndex + 1) s) = .ok u) :
    drain (k + 1) s = if u.digitCount.toNat = Config.N then .ok (.completed, frEnd u) else drain k u := by
  rw [(drain_cons k s b rest hq).2]
  unfold readTo at hbit
  rw [hbit]

/-- The drain loop takes the bits of a part of a group one after another (R203, R207). -/
theorem drain_part (k : Nat) (bits rest part : List Bit) (s : State) (hq : s.unread = bits ++ rest)
    (hlen : part.length + bits.length ≤ 4) (hroom : s.digitCount.toNat < Config.N) :
    ∃ r, (readTo r s).unread = rest ∧
      drain (bits.length + k) (partGroup part s) = drain k (partGroup (part ++ bits) (readTo r s)) := by
  induction bits generalizing s part with
  | nil => exact ⟨s.readIndex, hq, by simp [readTo]⟩
  | cons b bits ih =>
    rw [List.length_cons] at hlen
    have hpos : (partGroup part (readTo (s.readIndex + 1) s)).serInputPos.toNat < 4 :=
      (Nat.mod_le _ _).trans_lt (by omega)
    have htake : frBit b (readTo (s.readIndex + 1) (partGroup part s)) =
        .ok (partGroup (part ++ [b]) (readTo (s.readIndex + 1) s)) := by
      rw [← takeBit_partGroup b part _ (by omega)]
      exact frBit_of_lt b _ hpos
    obtain ⟨r, hrest, htail⟩ := ih (part ++ [b]) (readTo (s.readIndex + 1) s)
      (drain_cons 0 s b (bits ++ rest) hq).1 (by rw [List.length_append, List.length_singleton]; omega) hroom
    have hbelow : ¬(partGroup (part ++ [b]) (readTo (s.readIndex + 1) s)).digitCount.toNat = Config.N :=
      Nat.ne_of_lt hroom
    refine ⟨r, hrest, ?_⟩
    rw [List.length_cons, Nat.add_right_comm, drain_succ _ b (bits ++ rest) (partGroup part s) _ hq htake,
      if_neg hbelow, htail, List.append_assoc]
    rfl

/-- The fifth bit of a decimal digit's group pushes the digit and clears the accumulator (R203, R204). -/
theorem frBit_last_of_wireBits (d : Nibble) (dot : Bit) (s : State) (hd : d.toNat ≤ 9)
    (hroom : s.digitCount.toNat < Config.N) (hclear : clearGroup s = s) :
    frBit dot (partGroup (wireBits d dot).dropLast s) = .ok (acceptDigit (groupOf d dot) s) := by
  have htake : (takeBit dot (partGroup (wireBits d dot).dropLast s)).serInput = groupOf d dot := by
    rw [takeBit_partGroup dot (wireBits d dot).dropLast s (show 4 < 5 by decide), ← ofNat_bitsValue_wireBits]
    rfl
  have hcleared : clearGroup (partGroup (wireBits d dot).dropLast s) = s := hclear
  rw [frBit_flush _ _ rfl, htake, hcleared, frPush_groupOf d dot s hroom hd]

/-- The drain of a decimal digit's group into a frame with room accepts the digit, and ends the frame with the `N`-th
(R207). -/
theorem drain_wireBits (d : Nibble) (dot : Bit) (s : State) (hq : s.unread = wireBits d dot) (hd : d.toNat ≤ 9)
    (hroom : s.digitCount.toNat < Config.N) (hclear : clearGroup s = s) :
    ∃ r u, u = acceptDigit (groupOf d dot) (readTo r s) ∧ u.unread = [] ∧
      drain Config.qcap s =
        if u.digitCount.toNat = Config.N then .ok (.completed, frEnd u) else .ok (.emptied, u) := by
  obtain ⟨r, hlast, hpart⟩ :=
    drain_part 12 (wireBits d dot).dropLast [dot] [] s hq (show 0 + 4 ≤ 4 by decide) hroom
  have hbit := frBit_last_of_wireBits d dot (readTo (r + 1) s) hd hroom (congrArg (readTo (r + 1)) hclear)
  have hempty : (acceptDigit (groupOf d dot) (readTo (r + 1) s)).unread = [] :=
    (drain_cons 0 (readTo r s) dot [] hlast).1
  have hstart : partGroup [] s = s := hclear
  refine ⟨r + 1, _, rfl, hempty, ?_⟩
  calc drain Config.qcap s = drain 12 (partGroup (wireBits d dot).dropLast (readTo r s)) := by
        rw [hstart] at hpart
        exact hpart
    _ = _ := by
        rw [drain_succ 11 dot [] (partGroup (wireBits d dot).dropLast (readTo r s)) _ hlast hbit, drain_nil _ _ hempty]

/-! ### The iteration of an input-mode frame, by how its drain ends -/

/-- An iteration whose drain completes the frame (R207, R233). -/
theorem exec_coreIter_of_completed (s t : State) (hm : s.inputMode = true)
    (h : drain Config.qcap (if s.timeoutCounter = 0 then frBegin s else s) = .ok (.completed, t)) :
    exec .coreIter s = .next (t.returning .nothing) := by
  rw [exec_coreIter_eq_settle, coreIter, if_pos hm, frIter, if_pos hm, h, settle_ok]

/-- An iteration whose drain empties the queue, with no tick pending (R207, R233). -/
theorem exec_coreIter_of_emptied (s t : State) (hm : s.inputMode = true)
    (h : drain Config.qcap (if s.timeoutCounter = 0 then frBegin s else s) = .ok (.emptied, t))
    (htick : t.refreshNeeded = false) : exec .coreIter s = .next (t.returning .nothing) := by
  have hbook : bookkeeping t = .ok t := if_neg (by rw [htick]; decide)
  rw [exec_coreIter_eq_settle, coreIter, if_pos hm, frIter, if_pos hm, h]
  simp only [hbook, settle_ok]

/-- The iteration after a decimal digit's group, inside a frame with room and with no tick pending: the digit is accepted,
and the `N`-th ends the frame (R204, R207). -/
theorem exec_coreIter_of_wireBits (d : Nibble) (dot : Bit) (s : State) (hm : s.inputMode = true)
    (hwatchdog : s.timeoutCounter ≠ 0) (htick : s.refreshNeeded = false) (hq : s.unread = wireBits d dot)
    (hd : d.toNat ≤ 9) (hroom : s.digitCount.toNat < Config.N) (hclear : clearGroup s = s) :
    ∃ r u, u = acceptDigit (groupOf d dot) (readTo r s) ∧ u.unread = [] ∧
      exec .coreIter s =
        .next (if u.digitCount.toNat = Config.N then frEnd (u.returning .nothing) else u.returning .nothing) := by
  obtain ⟨r, u, hu, hempty, hdrain⟩ := drain_wireBits d dot s hq hd hroom hclear
  have hstart : (if s.timeoutCounter = 0 then frBegin s else s) = s := if_neg hwatchdog
  refine ⟨r, u, hu, hempty, ?_⟩
  split at hdrain
  next hfull =>
    rw [if_pos hfull, exec_coreIter_of_completed s _ hm (by rw [hstart, hdrain])]
    rfl
  next hmore =>
    rw [if_neg hmore, exec_coreIter_of_emptied s _ hm (by rw [hstart, hdrain]) (by rw [hu]; exact htick)]

/-! ### The edges of a frame -/

/-- In input mode the edges queue their levels, as long as there is room for them (R76, R231). -/
theorem runScript_irqEdge (bits : List Bit) (s : State) (hm : s.inputMode = true)
    (hroom : s.unread.length + bits.length ≤ 15) :
    ∃ t, runScript (bits.map .irqEdge) s = .next t ∧ t.unread = s.unread ++ bits ∧
      t = { s with q := t.q, writeIndex := t.writeIndex, result := t.result } := by
  induction bits generalizing s with
  | nil => exact ⟨s, rfl, by simp, rfl⟩
  | cons b bits ih =>
    rw [List.length_cons, length_unread] at hroom
    have hfits : s.occupancy ≠ 15 := by omega
    have hunread : (bqWrite b s).unread = s.unread ++ [b] := by rw [bqWrite_unread, if_neg hfits]
    have hwrite := bqWrite_eq b s
    rw [if_neg hfits, List.append_nil] at hwrite
    have hedge : exec (.irqEdge b) s = .next ((bqWrite b s).returning .nothing) := by
      rw [exec, execIrqEdge, irqEdge, if_pos hm, done_eq]
    obtain ⟨t, hrun, hqueue, hrest⟩ := ih ((bqWrite b s).returning .nothing) (by rw [hwrite]; exact hm)
      (by rw [returning_unread, hunread, List.length_append, length_unread, List.length_singleton]; omega)
    refine ⟨t, ?_, ?_, ?_⟩
    · rw [List.map_cons, runScript_cons_of_next _ _ _ _ hedge, hrun]
    · rw [hqueue, returning_unread, hunread, List.append_assoc, List.singleton_append]
    · rw [hwrite] at hrest
      exact hrest

/-! ### The frame in progress -/

/-- What holds after each iteration of a frame that began in state `s` with no tick pending and has sent these digits:
the framer holds them, the queue is drained, no part of a group is taken, and the rest of the state is as in `s`. -/
structure InFrame (s : State) (digits : List (Nibble × Bit)) (t : State) : Prop where
  holds : HoldsDigits t digits
  drained : t.unread = []
  rest : t = { s with
    q := t.q, writeIndex := t.writeIndex, readIndex := t.readIndex, displayValue := t.displayValue,
    displayDotmask := t.displayDotmask, serInput := 0, serInputPos := 0, digitCount := t.digitCount,
    timeoutCounter := 3, inputMode := true, result := .nothing }

/-- A frame grows at its end, an iteration after each digit. -/
theorem digitsScript_concat (digits : List (Nibble × Bit)) (d : Nibble × Bit) :
    digitsScript (digits ++ [d]) = digitsScript digits ++ (digitScript d.1 d.2 ++ [.coreIter]) := by
  induction digits with
  | nil => rfl
  | cons e rest ih =>
    rw [List.cons_append, digitsScript, digitsScript, ih, List.append_assoc, List.cons_append]

theorem frameScript_concat (digits : List (Nibble × Bit)) (d : Nibble × Bit) :
    frameScript (digits ++ [d]) = frameScript digits ++ (digitScript d.1 d.2 ++ [.coreIter]) := by
  rw [frameScript, frameScript, digitsScript_concat, List.append_assoc, List.cons_append]

/-- The announce edge and the iteration after it begin a frame with no digit (R202, R231). -/
theorem runScript_frameScript_nil (s : State) (hs : ExecInv s) (hm : s.inputMode = false)
    (htick : s.refreshNeeded = false) : ∃ t, runScript (frameScript []) s = .next t ∧ InFrame s [] t := by
  obtain ⟨hzero, hempty⟩ := hs.idle ((framerState_eq_idle s).mpr hm)
  have hannounce : exec (.irqEdge false) s = .next { s with inputMode := true, result := .nothing } := by
    rw [exec, execIrqEdge, irqEdge, if_neg (by rw [hm]; decide), done_eq]
    rfl
  have hqueue : State.unread { s with inputMode := true, result := .nothing } = [] :=
    unread_of_queueEmpty s hempty
  have hwatchdog : s.timeoutCounter = 0 := BitVec.eq_of_toNat_eq hzero
  have hiter := exec_coreIter_of_emptied { s with inputMode := true, result := .nothing }
    (frBegin { s with inputMode := true, result := .nothing }) rfl
    (by rw [if_pos hwatchdog]; exact drain_nil _ _ hqueue) htick
  refine ⟨_, (runScript_cons_of_next _ _ _ _ hannounce).trans (runScript_cons_of_next _ _ _ _ hiter), ?_⟩
  exact ⟨(frBegin_holdsDigits _).returning _, hqueue, rfl⟩

/-- A digit of a frame in progress, and the iteration after it: the framer holds the digit too, and the `N`-th digit ends
the frame (R204, R207). -/
theorem runScript_digit_of_inFrame (s t : State) (digits : List (Nibble × Bit)) (d : Nibble) (dot : Bit)
    (h : InFrame s digits t) (htick : s.refreshNeeded = false) (hroom : digits.length < Config.N)
    (hd : d.toNat ≤ 9) :
    ∃ u, InFrame s (digits ++ [(d, dot)]) u ∧
      runScript (digitScript d dot ++ [.coreIter]) t =
        .next (if digits.length + 1 = Config.N then frEnd u else u) := by
  obtain ⟨hholds, hdrained, hrest⟩ := h
  have hmode : t.inputMode = true := by rw [hrest]
  obtain ⟨v, hedges, hqueue, hv⟩ :=
    runScript_irqEdge (wireBits d dot) t hmode (by rw [hdrained]; exact (by decide : 0 + 5 ≤ 15))
  rw [hdrained, List.nil_append] at hqueue
  have hvholds : HoldsDigits v digits := by rw [hv]; exact { hholds with }
  rw [hrest] at hv
  obtain ⟨r, u, hu, hempty, hiter⟩ := exec_coreIter_of_wireBits d dot v (by rw [hv])
    (by rw [hv]; exact (by decide : (3 : Byte) ≠ 0)) (by rw [hv]; exact htick) hqueue hd
    (hvholds.count.trans_lt hroom) (by rw [hv]; rfl)
  have hholds' : HoldsDigits u (digits ++ [(d, dot)]) := by
    rw [hu]
    exact HoldsDigits.acceptDigit (s := readTo r v) { hvholds with } hroom d dot hd
  have hframe : InFrame s (digits ++ [(d, dot)]) (u.returning .nothing) :=
    ⟨hholds'.returning _, hempty, by rw [hu, hv]; rfl⟩
  rw [hholds'.count, List.length_append, List.length_singleton] at hiter
  refine ⟨_, hframe, ?_⟩
  rw [digitScript_eq, runScript_append_of_next _ _ _ _ hedges, runScript_cons_of_next _ _ _ _ hiter, runScript]

/-- A frame short of `N` digits is in progress after its last iteration. -/
theorem runScript_frameScript (s : State) (hs : ExecInv s) (hm : s.inputMode = false)
    (htick : s.refreshNeeded = false) (digits : List (Nibble × Bit)) (hlen : digits.length < Config.N)
    (hd : ∀ d ∈ digits, d.1.toNat ≤ 9) : ∃ t, runScript (frameScript digits) s = .next t ∧ InFrame s digits t := by
  induction digits using List.reverseRecOn with
  | nil => exact runScript_frameScript_nil s hs hm htick
  | append_singleton digits d ih =>
    rw [List.length_append, List.length_singleton] at hlen
    rw [List.forall_mem_append, List.forall_mem_singleton] at hd
    obtain ⟨t, ht, hframe⟩ := ih (by omega) hd.1
    obtain ⟨u, hu, hdigit⟩ := runScript_digit_of_inFrame s t digits d.1 d.2 hframe htick (by omega) hd.2
    rw [if_neg (by omega)] at hdigit
    exact ⟨u, by rw [frameScript_concat, runScript_append_of_next _ _ _ _ ht, hdigit], hu⟩

/-- `FR.END` of a full frame (R205): back in display mode with the queue reset, and the digits kept. -/
theorem InFrame.frEnd_eq {s u : State} {digits : List (Nibble × Bit)} (h : InFrame s digits u)
    (hlen : digits.length = Config.N) (hm : s.inputMode = false) :
    frEnd u = { s with
      q := u.q, writeIndex := 0, readIndex := 0, displayValue := u.displayValue,
      displayDotmask := u.displayDotmask, serInput := 0, serInputPos := 0, digitCount := 4,
      timeoutCounter := 0, result := .nothing } := by
  have hcount : u.digitCount = 4 := BitVec.eq_of_toNat_eq (h.holds.count.trans hlen)
  calc frEnd u = _ := congrArg frEnd h.rest
    _ = _ := by
      rw [hcount]
      simp only [frEnd, bqReset, ← hm]

/-- Settles O57: the frame is in progress until its last digit, which fills it, so `FR.END` runs. -/
theorem frameIsDecodedIntoTheDisplayedNumber : Obligations.FrameIsDecodedIntoTheDisplayedNumber := by
  intro s digits hs hm htick hlen hd
  obtain rfl | ⟨init, last, rfl⟩ := List.eq_nil_or_concat' digits
  · cases hlen
  have hinit : init.length + 1 = Config.N := by rwa [List.length_append, List.length_singleton] at hlen
  have hdigits := hd
  rw [List.forall_mem_append, List.forall_mem_singleton] at hdigits
  obtain ⟨t, ht, hframe⟩ := runScript_frameScript s hs hm htick init (by omega) hdigits.1
  obtain ⟨u, hu, hlast⟩ := runScript_digit_of_inFrame s t init last.1 last.2 hframe htick (by omega) hdigits.2
  rw [if_pos hinit] at hlast
  refine ⟨frEnd u, ?_, hu.frEnd_eq hlen hm, hu.holds.value, hu.holds.dots⟩
  rw [frameScript_concat, runScript_append_of_next _ _ _ _ ht, hlast]

end Sys2Proof.Machine
end

section
/-! The two halves of the encoding (30_encoding.md R103 to R105): a command word is its opcode and its operand field,
and each operand format is put together and taken apart without loss when the field fits the format. -/

namespace Sys2Proof

/-- A command word is its opcode and its operand field (R103). -/
theorem opcodeOf_append_operandOf (w : CommandWord) : opcodeOf w ++ operandOf w = w :=
  BitVec.extractLsb'_append_extractLsb' (w := 8) (len := 32)

/-! ### The fields of an encoded operand -/

theorem fieldBit_append (code : BitVec 8) (b : Bit) : fieldBit (code ++ bitOperand b) = b := by
  rw [fieldBit_eq, operandOf_append]
  cases b <;> rfl

theorem fieldByte_append (code : BitVec 8) (v : Byte) : fieldByte (code ++ v.setWidth 32) = v := by
  rw [fieldByte_eq, operandOf_append, BitVec.extractLsb'_setWidth_of_le (by omega), BitVec.extractLsb'_eq_self]

theorem fieldMatchGlyph_append (code : BitVec 8) (g d : Nibble) :
    fieldMatchGlyph (code ++ (g ++ d).setWidth 32) = g := by
  rw [fieldMatchGlyph_eq, operandOf_append, BitVec.extractLsb'_setWidth_of_le (by omega),
    BitVec.extractLsb'_append_eq_left]

theorem fieldLowNibble_append_match (code : BitVec 8) (g d : Nibble) :
    fieldLowNibble (code ++ (g ++ d).setWidth 32) = d := by
  rw [fieldLowNibble_eq, operandOf_append, BitVec.extractLsb'_setWidth_of_le (by omega),
    BitVec.extractLsb'_append_eq_right]

theorem fieldValue_append (code : BitVec 8) (v : BitVec 28) (g : Nibble) : fieldValue (code ++ (v ++ g)) = v := by
  rw [fieldValue_eq, operandOf_append, BitVec.extractLsb'_append_eq_left]

theorem fieldLowNibble_append_mask (code : BitVec 8) (v : BitVec 28) (g : Nibble) :
    fieldLowNibble (code ++ (v ++ g)) = g := by
  rw [fieldLowNibble_eq, operandOf_append, BitVec.extractLsb'_append_eq_right]

theorem fieldGroup_append (code : BitVec 8) (g : Group) : fieldGroup (code ++ g.setWidth 32) = g := by
  rw [fieldGroup_eq, operandOf_append, BitVec.extractLsb'_setWidth_of_le (by omega), BitVec.extractLsb'_eq_self]

/-- A narrower number fits the operand field of its width (R105). -/
theorem withOperand_append_setWidth {width : Nat} (code : BitVec 8) (x : BitVec width) (hwidth : width ≤ 32)
    (i : Instr) : withOperand (code ++ x.setWidth 32) width i = .ok i := by
  apply withOperand_of_lt
  rw [operandOf_append, BitVec.toNat_setWidth_of_le hwidth]
  exact x.isLt

/-- Settles O1: the opcode selects the arm of the decoder, the operand field fits its format, and each field is read
back. -/
theorem encodedOperationDecodesToItself : Obligations.EncodedOperationDecodesToItself := by
  intro i
  cases i
  case bqWrite bit | frBit bit | irqEdge bit => cases bit <;> rfl
  case srLoad value =>
    rw [encode, decode, opcodeOf_append]
    simp only [encodeOpcode, encodeOperand, fieldByte_append]
    exact withOperand_append_setWidth _ value (by omega) _
  case glMatch glyph digit =>
    rw [encode, decode, opcodeOf_append]
    simp only [encodeOpcode, encodeOperand, fieldMatchGlyph_append, fieldLowNibble_append_match]
    exact withOperand_append_setWidth _ (glyph ++ digit) (by omega) _
  case glMask value glyph =>
    rw [encode, decode, opcodeOf_append]
    simp only [encodeOpcode, encodeOperand, fieldValue_append, fieldLowNibble_append_mask]
    exact withOperand_of_lt _ 32 _ (operandOf _).isLt
  case frPush group =>
    rw [encode, decode, opcodeOf_append]
    simp only [encodeOpcode, encodeOperand, fieldGroup_append]
    exact withOperand_append_setWidth _ group (by omega) _
  all_goals rfl

/-! ### The operand field put together again from its fields -/

/-- A field that fits its low bits is those bits. -/
theorem setWidth_extractLsb'_of_lt (x : BitVec 32) (width : Nat) (h : x.toNat < 2 ^ width) :
    (x.extractLsb' 0 width).setWidth 32 = x := by
  apply BitVec.eq_of_toNat_eq
  rw [BitVec.toNat_setWidth, BitVec.extractLsb'_toNat, Nat.shiftRight_zero, Nat.mod_eq_of_lt h,
    Nat.mod_eq_of_lt x.isLt]

/-- Format Z: nothing but 0 fits (R105). -/
theorem zero_eq_operandOf (w : CommandWord) (h : (operandOf w).toNat < 2 ^ 0) : 0 = operandOf w :=
  BitVec.eq_of_toNat_eq (Nat.lt_one_iff.mp h).symm

/-- Format B (R105). -/
theorem bitOperand_fieldBit (w : CommandWord) (h : (operandOf w).toNat < 2 ^ 1) :
    bitOperand (fieldBit w) = operandOf w := by
  have hbit : BitVec.ofBool ((operandOf w).getLsbD 0) = (operandOf w).extractLsb' 0 1 :=
    BitVec.eq_of_getLsbD_eq (by simp)
  rw [bitOperand, fieldBit_eq, hbit, setWidth_extractLsb'_of_lt _ 1 h]

/-- Format V8 (R105). -/
theorem setWidth_fieldByte (w : CommandWord) (h : (operandOf w).toNat < 2 ^ 8) :
    (fieldByte w).setWidth 32 = operandOf w := by
  rw [fieldByte_eq, setWidth_extractLsb'_of_lt _ 8 h]

/-- Format GD (R105). -/
theorem setWidth_fieldMatchGlyph_append (w : CommandWord) (h : (operandOf w).toNat < 2 ^ 8) :
    (fieldMatchGlyph w ++ fieldLowNibble w).setWidth 32 = operandOf w := by
  rw [fieldMatchGlyph_eq, fieldLowNibble_eq,
    BitVec.extractLsb'_append_extractLsb'_eq_extractLsb' (start₁ := 0) (len₁ := 4) (len₂ := 4) rfl,
    setWidth_extractLsb'_of_lt _ _ h]

/-- Format VG (R105). -/
theorem fieldValue_append_fieldLowNibble (w : CommandWord) : fieldValue w ++ fieldLowNibble w = operandOf w := by
  rw [fieldValue_eq, fieldLowNibble_eq]
  exact BitVec.extractLsb'_append_extractLsb' (w := 28) (len := 4)

/-- Format G5 (R105). -/
theorem setWidth_fieldGroup (w : CommandWord) (h : (operandOf w).toNat < 2 ^ 5) :
    (fieldGroup w).setWidth 32 = operandOf w := by
  rw [fieldGroup_eq, setWidth_extractLsb'_of_lt _ 5 h]

/-- An arm of the decoder that takes a word has found its encoding, when opcode and operand field are those of the
operation (R103). -/
theorem encode_of_withOperand {w : CommandWord} {width : Nat} {i j : Instr} (h : withOperand w width i = .ok j)
    (hcode : (opcodeOf w).toNat = (encodeOpcode i).toNat)
    (hoperand : (operandOf w).toNat < 2 ^ width → encodeOperand i = operandOf w) : encode j = w := by
  unfold withOperand at h
  split at h
  next hfits =>
    cases h
    rw [encode, hoperand hfits, ← BitVec.eq_of_toNat_eq hcode, opcodeOf_append_operandOf]
  next => cases h

/-- Settles O2: each arm of the decoder finds the opcode and the operand field of its operation. -/
theorem decodedWordIsTheEncodingOfItsOperation : Obligations.DecodedWordIsTheEncodingOfItsOperation := by
  intro w i h
  unfold decode at h
  split at h
  -- The arms in the order of R104, by operand format: B, V8, GD, VG, G5, none (a reserved opcode), and Z for the rest.
  case h_4 hcode | h_13 hcode | h_18 hcode => exact encode_of_withOperand h hcode (bitOperand_fieldBit w)
  case h_6 hcode => exact encode_of_withOperand h hcode (setWidth_fieldByte w)
  case h_8 hcode => exact encode_of_withOperand h hcode (setWidth_fieldMatchGlyph_append w)
  case h_9 hcode => exact encode_of_withOperand h hcode fun _ => fieldValue_append_fieldLowNibble w
  case h_14 hcode => exact encode_of_withOperand h hcode (setWidth_fieldGroup w)
  case h_20 => cases h
  all_goals next hcode => exact encode_of_withOperand h hcode (zero_eq_operandOf w)

end Sys2Proof
end

section
/-! Which words decode (30_encoding.md R106): the opcode is listed, and the operand field fits the width of its format.
The decoder's arms and the rows of the opcode table are each held against this one description. -/

namespace Sys2Proof

/-- The number of operand bits in use of a listed opcode, by its format (R104, R105). -/
def operandWidth (code : BitVec 8) : Option Nat :=
  match code.toNat with
  | 0x00 | 0x01 | 0x10 | 0x12 | 0x21 | 0x40 | 0x41 | 0x50 | 0x53 | 0x54 | 0x55 | 0x61 => some 0
  | 0x11 | 0x51 | 0x60 => some 1
  | 0x52 => some 5
  | 0x20 | 0x30 => some 8
  | 0x31 => some 32
  | _ => none

/-! ### The decoder -/

/-- The decoder rejects an opcode that is not listed and else looks at the operand field (R106). -/
theorem decode_cases (w : CommandWord) :
    (operandWidth (opcodeOf w) = none ∧ decode w = .error (.opcode (opcodeOf w))) ∨
    ∃ width i, operandWidth (opcodeOf w) = some width ∧ decode w = withOperand w width i := by
  unfold decode
  split
  case h_20 =>
    refine .inl ⟨?_, rfl⟩
    unfold operandWidth
    split
    case h_20 => rfl
    all_goals contradiction
  all_goals next hcode => exact .inr ⟨_, _, by simp only [operandWidth, hcode], rfl⟩

theorem decode_of_unlisted (w : CommandWord) (h : operandWidth (opcodeOf w) = none) :
    decode w = .error (.opcode (opcodeOf w)) := by
  rcases decode_cases w with ⟨-, hdecode⟩ | ⟨width, i, hlisted, -⟩
  · exact hdecode
  · simp [h] at hlisted

theorem decode_of_fits (w : CommandWord) (width : Nat) (h : operandWidth (opcodeOf w) = some width)
    (hfits : (operandOf w).toNat < 2 ^ width) : ∃ i, decode w = .ok i := by
  rcases decode_cases w with ⟨hunlisted, -⟩ | ⟨width', i, hlisted, hdecode⟩
  · simp [h] at hunlisted
  · cases h.symm.trans hlisted
    exact ⟨i, by rw [hdecode, withOperand_of_lt w width i hfits]⟩

theorem decode_of_not_fits (w : CommandWord) (width : Nat) (h : operandWidth (opcodeOf w) = some width)
    (hover : 2 ^ width ≤ (operandOf w).toNat) : decode w = .error (.operand (opcodeOf w)) := by
  rcases decode_cases w with ⟨hunlisted, -⟩ | ⟨width', i, hlisted, hdecode⟩
  · simp [h] at hunlisted
  · cases h.symm.trans hlisted
    rw [hdecode, withOperand_of_le w width i hover]

/-! ### The rows of the opcode table -/

/-- The listed opcodes are those of the rows. -/
theorem any_opcodeRows_opcode (code : BitVec 8) :
    opcodeRows.any (fun row => row.pattern.extractLsb' 32 8 == code) = (operandWidth code).isSome := by
  revert code
  decide

/-- The mask of a row leaves out the operand bits of its format, and its pattern is its opcode alone. -/
theorem opcodeRows_shape (row : OpcodeRow) (hrow : row ∈ opcodeRows) :
    ∃ width, operandWidth (opcodeOf row.pattern) = some width ∧ width ≤ 32 ∧
      row.mask = BitVec.allOnes 40 <<< width ∧ row.pattern = opcodeOf row.pattern ++ (0 : BitVec 32) := by
  have hall : ∀ row ∈ opcodeRows, (operandWidth (opcodeOf row.pattern)).any fun width =>
      width ≤ 32 ∧ row.mask = BitVec.allOnes 40 <<< width ∧
        row.pattern = opcodeOf row.pattern ++ (0 : BitVec 32) := by decide
  obtain ⟨width, hwidth, hshape⟩ := (Option.any_eq_true _ _).mp (hall row hrow)
  exact ⟨width, hwidth, of_decide_eq_true hshape⟩

/-- The bits above the low ones are 0 exactly when the number is below the power (R105). -/
theorem and_high_eq_zero_iff (x : BitVec 32) (width : Nat) :
    x &&& BitVec.allOnes 32 <<< width = 0 ↔ x.toNat < 2 ^ width := by
  have hle : x.toNat / 2 ^ width * 2 ^ width < 2 ^ 32 := (Nat.div_mul_le_self _ _).trans_lt x.isLt
  rw [← BitVec.shiftLeft_ushiftRight, ← BitVec.toNat_inj, BitVec.toNat_shiftLeft, BitVec.toNat_ushiftRight,
    Nat.shiftRight_eq_div_pow, Nat.shiftLeft_eq, Nat.mod_eq_of_lt hle]
  simp [Nat.div_eq_zero_iff]

/-- Under the mask of a format a word is its opcode alone exactly when its operand fits the format. -/
theorem and_mask_eq_iff (w : CommandWord) (width : Nat) (hwidth : width ≤ 32) (code : BitVec 8) :
    w &&& BitVec.allOnes 40 <<< width = code ++ (0 : BitVec 32) ↔
      opcodeOf w = code ∧ (operandOf w).toNat < 2 ^ width := by
  have hmask : ∀ width ≤ 32, (BitVec.allOnes 40 <<< width : CommandWord) =
      BitVec.allOnes 8 ++ (BitVec.allOnes 32 <<< width : BitVec 32) := by decide
  have happly : w &&& BitVec.allOnes 40 <<< width =
      opcodeOf w ++ (operandOf w &&& BitVec.allOnes 32 <<< width) :=
    calc w &&& BitVec.allOnes 40 <<< width
        = (opcodeOf w ++ operandOf w) &&& (BitVec.allOnes 8 ++ BitVec.allOnes 32 <<< width) := by
          rw [opcodeOf_append_operandOf, hmask width hwidth]
      _ = _ := by rw [BitVec.and_append, BitVec.and_allOnes]
  rw [happly, ← and_high_eq_zero_iff]
  constructor
  · intro h
    exact ⟨by simpa using congrArg opcodeOf h, by simpa using congrArg operandOf h⟩
  · rintro ⟨hcode, hoperand⟩
    rw [hcode, hoperand]

/-- A word belongs to a row exactly when it has the row's opcode and its operand fits the row's format. -/
theorem OpcodeRow.holds_iff (row : OpcodeRow) (hrow : row ∈ opcodeRows) (w : CommandWord) :
    row.holds w = true ↔ opcodeOf row.pattern = opcodeOf w ∧
      ∃ width, operandWidth (opcodeOf w) = some width ∧ (operandOf w).toNat < 2 ^ width := by
  obtain ⟨width, hlisted, hwidth, hmask, hpattern⟩ := opcodeRows_shape row hrow
  rw [OpcodeRow.holds, beq_iff_eq, hmask, hpattern, and_mask_eq_iff w width hwidth, opcodeOf_append]
  constructor
  · rintro ⟨hcode, hfits⟩
    exact ⟨hcode.symm, width, by rw [hcode, hlisted], hfits⟩
  · rintro ⟨hcode, width', hlisted', hfits⟩
    rw [hcode, hlisted'] at hlisted
    cases hlisted
    exact ⟨hcode.symm, hfits⟩

/-- A word is well formed exactly when its opcode is listed and its operand fits the format (R106). -/
theorem wordWellFormed_iff (w : CommandWord) :
    wordWellFormed w = true ↔
      ∃ width, operandWidth (opcodeOf w) = some width ∧ (operandOf w).toNat < 2 ^ width := by
  rw [wordWellFormed, List.any_eq_true]
  constructor
  · rintro ⟨row, hrow, hholds⟩
    exact ((row.holds_iff hrow w).mp hholds).2
  · rintro ⟨width, hlisted, hfits⟩
    have hrow := any_opcodeRows_opcode (opcodeOf w)
    rw [hlisted, Option.isSome_some, List.any_eq_true] at hrow
    obtain ⟨row, hrow, hcode⟩ := hrow
    exact ⟨row, hrow, (row.holds_iff hrow w).mpr ⟨beq_iff_eq.mp hcode, width, hlisted, hfits⟩⟩

/-- Settles O3: the decoder's arms and the table's rows take the same opcodes with the same operand widths. -/
theorem wordDecodesExactlyWhenWellFormed : Obligations.WordDecodesExactlyWhenWellFormed := by
  intro w
  rw [wordWellFormed_iff]
  constructor
  · rintro ⟨i, hi⟩
    rcases hlisted : operandWidth (opcodeOf w) with - | width
    · cases hi.symm.trans (decode_of_unlisted w hlisted)
    · refine ⟨width, rfl, Nat.lt_of_not_le fun hover => ?_⟩
      cases hi.symm.trans (decode_of_not_fits w width hlisted hover)
  · rintro ⟨width, hlisted, hfits⟩
    exact decode_of_fits w width hlisted hfits

end Sys2Proof
end

section
/-! A pending command word (30_encoding.md R103, R106): a word that decodes runs its operation, a reserved word is
refused by name. -/

namespace Sys2Proof.Machine

/-- Fetching takes the first pending word that decodes (R103; log entry 1). -/
theorem fetch_of_decode_ok (s : State) (w : CommandWord) (rest : List CommandWord) (i : Instr)
    (hpending : s.commands = w :: rest) (hdecode : decode w = .ok i) :
    fetch s = .ok (i, { s with commands := rest }) := by
  simp only [fetch, hpending, hdecode]

/-- Fetching rejects the first pending word that is reserved, by name (R106). -/
theorem fetch_of_decode_error (s : State) (w : CommandWord) (rest : List CommandWord) (r : Reserved)
    (hpending : s.commands = w :: rest) (hdecode : decode w = .error r) : fetch s = .error (refusalOf r) := by
  simp only [fetch, hpending, hdecode]

/-- Settles O5: the step executes what was fetched. -/
theorem stepRunsTheDecodedCommand : Obligations.StepRunsTheDecodedCommand := by
  intro s w rest i hpending hdecode
  rw [step, fetch_of_decode_ok s w rest i hpending hdecode]

/-- A word that is not well formed is rejected by the decoder, which names an opcode of no row, or else the operand
bits (R106). -/
theorem decode_of_not_wellFormed (w : CommandWord) (h : wordWellFormed w = false) :
    decode w = .error
      (if (operandWidth (opcodeOf w)).isSome then .operand (opcodeOf w) else .opcode (opcodeOf w)) := by
  rcases hlisted : operandWidth (opcodeOf w) with - | width
  · exact decode_of_unlisted w hlisted
  · refine decode_of_not_fits w width hlisted (Nat.le_of_not_lt fun hfits => ?_)
    rw [(wordWellFormed_iff w).mpr ⟨width, hlisted, hfits⟩] at h
    cases h

/-- Settles O6: the decoder's name for a reserved word is the refusal, and the opcodes it lists are those of the
table. -/
theorem stepRefusesAReservedCommand : Obligations.StepRefusesAReservedCommand := by
  intro s w rest hpending hreserved
  rw [step, fetch_of_decode_error s w rest _ hpending (decode_of_not_wellFormed w hreserved),
    any_opcodeRows_opcode, ← opcodeOf]
  cases (operandWidth (opcodeOf w)).isSome <;> rfl

/-- Settles O4: words of the spec, evaluated. -/
theorem writtenWordsDecodeAsListed : Obligations.WrittenWordsDecodeAsListed := by
  unfold Obligations.WrittenWordsDecodeAsListed
  decide

end Sys2Proof.Machine
end

section
/-! A script issued on the command port (30_encoding.md R111; log entry 1): no operation reads or writes the pending
words, so each runs the same whatever words are pending behind it. -/

namespace Sys2Proof.Machine

/-- The state with these words pending. -/
def withCommands (words : List CommandWord) (s : State) : State := { s with commands := words }

/-- The answer with these words pending in the next state. -/
def answerWithCommands (words : List CommandWord) : Answer → Answer
  | .next s => .next (withCommands words s)
  | .fault f => .fault f
  | .refused r => .refused r

/-! ### The queue, the sender and the sequencer -/

theorem bqWrite_withCommands (words : List CommandWord) (b : Bit) (s : State) :
    bqWrite b (withCommands words s) = withCommands words (bqWrite b s) := by
  rw [bqWrite_eq, bqWrite_eq]
  rfl

theorem bqRead_withCommands (words : List CommandWord) (s : State) :
    bqRead (withCommands words s) = ((bqRead s).1, withCommands words (bqRead s).2) := by
  cases h : s.queueEmpty with
  | true => rw [bqRead_of_empty s h, bqRead_of_empty (withCommands words s) h]
  | false =>
    rw [bqRead_of_nonempty s h, bqRead_of_nonempty (withCommands words s) h]
    rfl

theorem srStep_withCommands (words : List CommandWord) (s : State) :
    srStep (withCommands words s) = ((srStep s).1, withCommands words (srStep s).2) := by
  by_cases hf : s.srFinished = true
  · rw [srStep, srStep, if_pos hf]
    exact if_pos hf
  · rw [srStep, srStep, if_neg hf]
    refine (if_neg hf).trans ?_
    cases hp : s.srPhase with
    | lowPending =>
      have hp' : (withCommands words s).srPhase = .lowPending := hp
      rw [hp']
      rfl
    | highPending =>
      have hp' : (withCommands words s).srPhase = .highPending := hp
      rw [hp']
      rfl

theorem advanceGlyph_withCommands (words : List CommandWord) (s : State) :
    advanceGlyph (withCommands words s) = withCommands words (advanceGlyph s) := by
  simp only [advanceGlyph, apply_ite (withCommands words)]
  rfl

theorem mxNext_withCommands (words : List CommandWord) (s : State) :
    mxNext (withCommands words s) = withCommands words (mxNext s) := by
  rw [mxNext, advanceGlyph_withCommands]
  rfl

theorem mxFinished_withCommands (words : List CommandWord) (s : State) :
    mxFinished (withCommands words s) = withCommands words (mxFinished s) := by
  simp only [mxFinished, apply_ite (withCommands words), ← mxNext_withCommands]
  rfl

theorem mxStep_withCommands (words : List CommandWord) (s : State) :
    mxStep (withCommands words s) = withCommands words (mxStep s) := by
  simp only [mxStep, srStep_withCommands, mxFinished_withCommands]
  split <;> rfl

/-! ### The framer -/

theorem frPush_withCommands (words : List CommandWord) (g : Group) (s : State) :
    frPush g (withCommands words s) = (frPush g s).map (withCommands words) := by
  rw [frPush, frPush, apply_ite (Except.map _), apply_ite (Except.map _)]
  rfl

/-- `FR.BIT` takes the bit and then, at the fifth, pushes the group (R203). -/
theorem frBit_eq (b : Bit) (s : State) :
    frBit b s = if (takeBit b s).serInputPos.toNat = Config.groupBits
      then (frPush (takeBit b s).serInput (takeBit b s)).map clearGroup else .ok (takeBit b s) := by
  simp only [frBit]
  cases frPush (takeBit b s).serInput (takeBit b s) <;> rfl

theorem frBit_withCommands (words : List CommandWord) (b : Bit) (s : State) :
    frBit b (withCommands words s) = (frBit b s).map (withCommands words) := by
  have hflush : (frPush (takeBit b s).serInput (withCommands words (takeBit b s))).map clearGroup =
      ((frPush (takeBit b s).serInput (takeBit b s)).map clearGroup).map (withCommands words) := by
    rw [frPush_withCommands]
    cases frPush (takeBit b s).serInput (takeBit b s) <;> rfl
  rw [frBit_eq, frBit_eq, apply_ite (Except.map _), ← hflush]
  rfl

theorem frTmo_withCommands (words : List CommandWord) (s : State) :
    frTmo (withCommands words s) = (frTmo s).map (withCommands words) := by
  rw [frTmo, frTmo, apply_ite (Except.map _), apply_ite (Except.map _)]
  rfl

theorem bookkeeping_withCommands (words : List CommandWord) (s : State) :
    bookkeeping (withCommands words s) = (bookkeeping s).map (withCommands words) := by
  rw [bookkeeping, bookkeeping, apply_ite (Except.map _), ← frTmo_withCommands]
  rfl

theorem drain_withCommands (words : List CommandWord) (k : Nat) (s : State) :
    drain k (withCommands words s) = (drain k s).map (Prod.map id (withCommands words)) := by
  induction k generalizing s with
  | zero => rfl
  | succ k ih =>
    rw [drain, drain, bqRead_withCommands]
    obtain ⟨bit, t⟩ := bqRead s
    cases bit with
    | none => rfl
    | some bit =>
      simp only [frBit_withCommands]
      cases frBit bit t with
      | error r => rfl
      | ok u =>
        simp only [apply_ite (Except.map _), ← ih]
        rfl

/-- The first line of `FR.ITER` (R207). -/
theorem frIter_start_withCommands (words : List CommandWord) (s : State) :
    (if (withCommands words s).timeoutCounter = 0 then frBegin (withCommands words s) else withCommands words s) =
      withCommands words (if s.timeoutCounter = 0 then frBegin s else s) := by
  rw [apply_ite (withCommands words)]
  rfl

theorem frIter_withCommands (words : List CommandWord) (s : State) :
    frIter (withCommands words s) = (frIter s).map (withCommands words) := by
  rw [frIter, frIter, frIter_start_withCommands, drain_withCommands, apply_ite (Except.map _)]
  cases drain Config.qcap (if s.timeoutCounter = 0 then frBegin s else s) with
  | error r => rfl
  | ok ended =>
    obtain ⟨e, t⟩ := ended
    cases e with
    | completed => rfl
    | emptied =>
      simp only [← bookkeeping_withCommands]
      rfl

/-! ### Every operation -/

theorem irqEdge_withCommands (words : List CommandWord) (level : Bit) (s : State) :
    irqEdge level (withCommands words s) = withCommands words (irqEdge level s) := by
  rw [irqEdge, irqEdge, apply_ite (withCommands words), ← bqWrite_withCommands]
  rfl

theorem coreIter_withCommands (words : List CommandWord) (s : State) :
    coreIter (withCommands words s) = (coreIter s).map (withCommands words) := by
  rw [coreIter, coreIter, apply_ite (Except.map _), ← frIter_withCommands, mxStep_withCommands]
  rfl

theorem settle_withCommands (words : List CommandWord) (x : Except Refusal State) :
    settle (x.map (withCommands words)) = answerWithCommands words (settle x) := by
  cases x <;> rfl

/-- No operation reads or writes the pending words. -/
theorem exec_withCommands (words : List CommandWord) (i : Instr) (s : State) :
    exec i (withCommands words s) = answerWithCommands words (exec i s) := by
  cases i
  case coreIter => rw [exec, exec, execCoreIter, coreIter_withCommands, settle_withCommands, execCoreIter]
  case bqWrite bit => rw [exec, exec, execBqWrite, bqWrite_withCommands]; rfl
  case bqRead => rw [exec, exec, execBqRead, bqRead_withCommands]; rfl
  case srStep => rw [exec, exec, execSrStep, srStep_withCommands]; rfl
  case mxNext => rw [exec, exec, execMxNext, mxNext_withCommands]; rfl
  case mxStep => rw [exec, exec, execMxStep, mxStep_withCommands]; rfl
  case frBit bit => rw [exec, exec, execFrBit, frBit_withCommands, settle_withCommands, execFrBit]
  case frPush group => rw [exec, exec, execFrPush, frPush_withCommands, settle_withCommands, execFrPush]
  case frTmo => rw [exec, exec, execFrTmo, frTmo_withCommands, settle_withCommands, execFrTmo]
  case frIter => rw [exec, exec, execFrIter, frIter_withCommands, settle_withCommands, execFrIter]
  case irqEdge level => rw [exec, exec, execIrqEdge, irqEdge_withCommands]; rfl
  all_goals rfl

/-! ### The run of a script's words -/

/-- The step with the word of an operation first executes the operation, the words behind it pending. -/
theorem step_of_encode (i : Instr) (words : List CommandWord) (s : State) :
    step (withCommands (encode i :: words) s) = answerWithCommands words (exec i s) := by
  rw [← exec_withCommands]
  exact stepRunsTheDecodedCommand _ (encode i) words i rfl (encodedOperationDecodesToItself i)

/-- The words of a script, with others behind them, make the machine run the script and leave those others pending. -/
theorem run_encode (script : List Instr) (words : List CommandWord) (s : State) :
    Host.Core.run Sys2Proof.core script.length (withCommands (script.map encode ++ words) s) =
      runScript script (withCommands words s) := by
  induction script generalizing s with
  | nil => rfl
  | cons i rest ih =>
    have hstep := step_of_encode i (rest.map encode ++ words) s
    have hexec := exec_withCommands words i s
    rw [List.map_cons, List.cons_append, List.length_cons]
    cases h : exec i s with
    | next t =>
      rw [h] at hstep hexec
      rw [run_succ_of_next _ _ _ hstep, ih, runScript_cons_of_next _ _ _ _ hexec]
    | fault f => cases f
    | refused r =>
      rw [h] at hstep hexec
      rw [run_succ_of_refused _ _ _ hstep, runScript, hexec]
      rfl

/-- Settles O8: the words behind the script are those already pending. -/
theorem issuedWordsRunTheScript : Obligations.IssuedWordsRunTheScript := by
  intro script s
  exact run_encode script s.commands s

end Sys2Proof.Machine
end

section
/-! A discarded group (44_serial_input_framer.md R210): four bits are taken, and the fifth pushes a value that is no
digit, so nothing but the report of it is left. -/

namespace Sys2Proof.Machine

/-- The bits of a part of a group are taken one after another (R203). -/
theorem runScript_frBit_part (bits part : List Bit) (s : State) (hlen : part.length + bits.length ≤ 4) :
    ∃ r, runScript (bits.map .frBit) (partGroup part s) = .next (partGroup (part ++ bits) (s.returning r)) := by
  induction bits generalizing s part with
  | nil => exact ⟨s.result, by rw [List.append_nil]; rfl⟩
  | cons b bits ih =>
    rw [List.length_cons] at hlen
    have hpos : (partGroup part s).serInputPos.toNat < 4 := (Nat.mod_le _ _).trans_lt (by omega)
    have hexec : exec (.frBit b) (partGroup part s) =
        .next (partGroup (part ++ [b]) (s.returning .nothing)) := by
      rw [exec_frBit_eq_settle, frBit_of_lt b _ hpos, takeBit_partGroup b part s (by omega)]
      rfl
    obtain ⟨r, hr⟩ := ih (part ++ [b]) (s.returning .nothing)
      (by rw [List.length_append, List.length_singleton]; omega)
    exact ⟨r, by rw [List.map_cons, runScript_cons_of_next _ _ _ _ hexec, hr, List.append_assoc]; rfl⟩

/-- The fifth bit pushes the group of the five (R92, R203). -/
theorem frBit_last_eq_frPush (d : Nibble) (dot : Bit) (s : State) (hclear : clearGroup s = s) :
    frBit dot (partGroup (wireBits d dot).dropLast s) = frPush (groupOf d dot) s := by
  have htake : (takeBit dot (partGroup (wireBits d dot).dropLast s)).serInput = groupOf d dot := by
    rw [takeBit_partGroup dot (wireBits d dot).dropLast s (show 4 < 5 by decide), ← ofNat_bitsValue_wireBits]
    rfl
  have hcleared : clearGroup (partGroup (wireBits d dot).dropLast s) = s := hclear
  rw [frBit_flush _ _ rfl, htake, hcleared]

/-- A value that is no digit is discarded while the frame has room (R107, R204). -/
theorem frPush_of_invalid (d : Nibble) (dot : Bit) (s : State) (hroom : s.digitCount.toNat < Config.N)
    (hd : 10 ≤ d.toNat) : frPush (groupOf d dot) s = .ok (s.signal .invalidDigitValue) := by
  rcases frPush_cases (groupOf d dot) s with ⟨hfull, -⟩ | ⟨-, -, hp⟩ | ⟨-, hsmall, -⟩
  · omega
  · exact hp
  · rw [groupVal_groupOf] at hsmall
    omega

/-- At position 0 a framer in range holds no bit of a group (R46). -/
theorem clearGroup_of_pos_zero (s : State) (hs : RangeInv s) (hpos : s.serInputPos.toNat = 0) : clearGroup s = s := by
  have hinput := hs.input_lt
  rw [hpos] at hinput
  have hzero : s.serInput = 0 := BitVec.eq_of_toNat_eq (Nat.lt_one_iff.mp hinput)
  have hstart : s.serInputPos = 0 := BitVec.eq_of_toNat_eq hpos
  rw [clearGroup, ← hzero, ← hstart]

/-- Settles O39: the accumulator is empty before the group and again after it, and the push changes only the log. -/
theorem invalidGroupLeavesTheFramerUnchanged : Obligations.InvalidGroupLeavesTheFramerUnchanged := by
  intro s d dot hs hroom hpos hd
  have hclear := clearGroup_of_pos_zero s hs hpos
  have hstart : partGroup [] s = s := hclear
  obtain ⟨r, hfour⟩ := runScript_frBit_part (wireBits d dot).dropLast [] s (show 0 + 4 ≤ 4 by decide)
  rw [hstart] at hfour
  have hlast : exec (.frBit dot) (partGroup (wireBits d dot).dropLast (s.returning r)) =
      .next (((s.returning r).signal .invalidDigitValue).returning .nothing) := by
    rw [exec_frBit_eq_settle, frBit_last_eq_frPush d dot (s.returning r) (congrArg (State.returning · r) hclear),
      frPush_of_invalid d dot (s.returning r) hroom hd, settle_ok]
  exact (runScript_append_of_next _ [.frBit dot] s _ hfour).trans (runScript_cons_of_next _ [] _ _ hlast)

end Sys2Proof.Machine
end

section
/-! A glyph cycle on the wire (30_encoding.md R94, 43_display_multiplex_sequencer.md R183): the iteration that opens it,
two for each bit of the mask, and the one that lowers the count line again. -/

namespace Sys2Proof.Machine

/-! ### The mask -/

/-- The matching digits are those of the table (R161, R163). -/
theorem glMatch_iff_mem (glyph digit : Nat) (hg : glyph ≤ 14) (hd : digit ≤ 9) :
    glMatch glyph digit = true ↔ digit ∈ matchingDigits glyph := by
  have hall : ∀ glyph ≤ 14, ∀ digit ≤ 9, glMatch glyph digit = true ↔ digit ∈ matchingDigits glyph := by decide
  exact hall glyph hg digit hd

/-- `GL.MASK` of a glyph that carries data is the mask of its number (R166). -/
theorem isMaskOf_glMask (value glyph : Nat) (hg : glyph ≤ 14) : IsMaskOf (glMask value glyph) value glyph := by
  intro p hp
  rw [glMask, getLsbD_glMaskBelow _ _ _ _ hp, Bool.and_eq_true, decide_eq_true_iff,
    glMatch_iff_mem _ _ hg (digitAt_le value p)]
  rfl

/-! ### The iterations of a cycle -/

/-- An iteration in display mode is one step of the sequencer (R233). -/
theorem exec_coreIter_of_display (s : State) (hm : s.inputMode = false) :
    exec .coreIter s = .next ((mxStep s).returning .nothing) := by
  rw [exec_coreIter_eq_settle, coreIter, if_neg (by rw [hm]; decide), settle_ok]

/-- Starting a cycle leaves the sender as a load of the mask does, behind the events that open the cycle (R94, R181). -/
theorem mxNext_eq_afterBits (s : State) (h : s.currentGlyph.toNat ≤ 14) :
    ∃ u, mxNext s = afterBits (glMask s.displayValue.toNat u.currentGlyph.toNat) u 0 ∧
      u.currentGlyph.toNat = (s.currentGlyph.toNat + 1) % 15 ∧
      u = { s with
        currentGlyph := u.currentGlyph, out := u.out, trace := s.trace ++ openingEvents s.currentGlyph.toNat } := by
  obtain ⟨hnext, hglyph⟩ := mxNext_eq s h
  refine ⟨{ s with
    currentGlyph := (advanceGlyph s).currentGlyph
    out := (mxNext s).out
    trace := s.trace ++ openingEvents s.currentGlyph.toNat }, ?_, hglyph, rfl⟩
  rw [← srLoad_eq_afterBits, hnext]
  rfl

/-- Two iterations send one bit (R142, R182). -/
theorem runScript_two_coreIter (value : Byte) (s : State) (k : Nat) (hk : k < 8) (hm : s.inputMode = false) :
    runScript [.coreIter, .coreIter] ((afterBits value s k).returning .nothing) =
      .next ((afterBits value s (k + 1)).returning .nothing) := by
  have hindex : ((afterBits value s k).returning .nothing).srBitIndex.toNat = k :=
    afterBits_srBitIndex value s k (by omega)
  have hlow : mxStep ((afterBits value s k).returning .nothing) =
      srLowPhase ((afterBits value s k).returning .nothing) := by
    rw [mxStep_of_sending _ (by omega), srStep_of_low _ (by omega) rfl]
  have hhigh : mxStep ((srLowPhase ((afterBits value s k).returning .nothing)).returning .nothing) =
      srHighPhase ((srLowPhase ((afterBits value s k).returning .nothing)).returning .nothing) := by
    have hindex' : ((srLowPhase ((afterBits value s k).returning .nothing)).returning
        .nothing).srBitIndex.toNat < 8 := hindex.trans_lt hk
    rw [mxStep_of_sending _ hindex', srStep_of_high _ hindex' rfl]
  have hfirst := exec_coreIter_of_display ((afterBits value s k).returning .nothing) hm
  have hsecond := exec_coreIter_of_display
    ((srLowPhase ((afterBits value s k).returning .nothing)).returning .nothing) hm
  rw [hlow] at hfirst
  rw [hhigh, srHighPhase_srLowPhase_afterBits value s k hk] at hsecond
  rw [runScript_cons_of_next _ _ _ _ hfirst, runScript_cons_of_next _ _ _ _ hsecond]
  rfl

/-- The first `2k` iterations after a load send the first `k` bits (R144, R182). -/
theorem runScript_coreIter_afterBits (value : Byte) (s : State) (k : Nat) (hk : k ≤ 8) (hm : s.inputMode = false) :
    runScript (iterScript (2 * k)) ((afterBits value s 0).returning .nothing) =
      .next ((afterBits value s k).returning .nothing) := by
  induction k with
  | zero => rfl
  | succ k ih =>
    have hsplit : iterScript (2 * (k + 1)) = iterScript (2 * k) ++ [.coreIter, .coreIter] :=
      List.replicate_add (2 * k) 2 _
    rw [hsplit, runScript_append_of_next _ _ _ _ (ih (by omega))]
    exact runScript_two_coreIter value s k hk hm

/-- The iteration that opens a cycle leaves the mask of the displayed number loaded (R94, R182). -/
theorem exec_coreIter_of_finished_tick (s : State) (hm : s.inputMode = false) (hf : s.srBitIndex.toNat = 8)
    (htick : s.refreshNeeded = true) (hg : s.currentGlyph.toNat ≤ 14) :
    ∃ m u, exec .coreIter s = .next ((afterBits m u 0).returning .nothing) ∧
      IsMaskOf m s.displayValue.toNat ((s.currentGlyph.toNat + 1) % 15) ∧
      u.currentGlyph.toNat = (s.currentGlyph.toNat + 1) % 15 ∧
      u = { s with
        currentGlyph := u.currentGlyph, out := u.out, refreshNeeded := false
        trace := s.trace ++ [⟨.cnt, false⟩] ++ openingEvents s.currentGlyph.toNat } := by
  obtain ⟨u, hnext, hglyph, hu⟩ := mxNext_eq_afterBits { s.pinWrite .cnt false with refreshNeeded := false } hg
  have hmask := isMaskOf_glMask s.displayValue.toNat ((s.currentGlyph.toNat + 1) % 15) (by omega)
  refine ⟨_, u, ?_, hmask, hglyph, hu⟩
  rw [exec_coreIter_of_display s hm, mxStep_of_finished s hf, if_pos htick, hnext, hglyph]
  rfl

/-- The iteration of a finished sender with no tick pending only lowers the count line (R182). -/
theorem exec_coreIter_of_finished_idle (s : State) (hm : s.inputMode = false) (hf : s.srBitIndex.toNat = 8)
    (htick : s.refreshNeeded = false) :
    exec .coreIter s = .next ((s.pinWrite .cnt false).returning .nothing) := by
  rw [exec_coreIter_of_display s hm, mxStep_of_finished s hf, if_neg (by rw [htick]; decide)]

/-- Settles O30: one iteration opens the cycle, sixteen send the eight bits of the mask, and the last finds the sender
finished with no tick pending. -/
theorem glyphCycleSendsTheMaskOnTheWire : Obligations.GlyphCycleSendsTheMaskOnTheWire := by
  intro s hs hm hf htick
  have hindex := (srFinished_iff s).mp hf
  obtain ⟨m, u, hopen, hmask, hglyph, hu⟩ := exec_coreIter_of_finished_tick s hm hindex htick hs.glyph_le
  have hmode : u.inputMode = false := by rw [hu, hm]
  have hidle : u.refreshNeeded = false := by rw [hu]
  have hsent := runScript_coreIter_afterBits m u 8 le_rfl hmode
  have hclose := exec_coreIter_of_finished_idle ((afterBits m u 8).returning .nothing) hmode
    (afterBits_srBitIndex m u 8 le_rfl) hidle
  have htrace : u.trace = s.trace ++ [⟨.cnt, false⟩] ++ openingEvents s.currentGlyph.toNat := by rw [hu]
  have hlow : s.srPhase = .lowPending := hs.finished_low hindex
  have height : s.srBitIndex = 8 := BitVec.eq_of_toNat_eq hindex
  refine ⟨m, (((afterBits m u 8).returning .nothing).pinWrite .cnt false).returning .nothing, ?_, hmask, ?_, hglyph,
    rfl, hidle, ?_⟩
  · have hrest := (runScript_append_of_next _ [.coreIter] _ _ hsent).trans (runScript_cons_of_next _ [] _ _ hclose)
    exact (runScript_cons_of_next _ (iterScript 17) _ _ hopen).trans hrest
  · rw [← htrace, ← firstBitEvents_eight]
    rfl
  · rw [hu]
    simp only [afterBits, State.returning, State.pinWrite, hlow, height]
    rfl

end Sys2Proof.Machine
end

section
/-! The block bit_queue_fifo, operation by operation (40_bit_queue_fifo.md R121 to R123). -/

namespace Sys2Proof.Machine

/-- Settles O13: the result of the reset differs in the indices, and reading a cell does not look at them. -/
theorem bqResetClearsBothIndices : Obligations.BqResetClearsBothIndices :=
  ⟨by decide, fun s => ⟨(bqReset s).returning .nothing, rfl, rfl, rfl, fun _ => rfl⟩⟩

/-- The cell that `BQ.WRITE` stores into holds the bit (R122). -/
@[simp] theorem readCell_bqWrite_same (b : Bit) (s : State) : (bqWrite b s).readCell s.writeIndex = b := by
  rw [bqWrite_eq]
  exact Vector.getElem_set_self _

/-- `BQ.WRITE` stores into no other cell (R122). -/
theorem readCell_bqWrite_ne (b : Bit) (s : State) (i : Nibble) (hi : i ≠ s.writeIndex) :
    (bqWrite b s).readCell i = s.readCell i := by
  have hne : s.writeIndex.toNat ≠ i.toNat := fun h => hi (BitVec.eq_of_toNat_eq h.symm)
  rw [bqWrite_eq]
  exact Vector.getElem_set_ne s.writeIndex.isLt i.isLt hne

/-- The occupancy as a number computed from the indices (R126). -/
theorem occupancy_eq_mod (s : State) : s.occupancy = (s.writeIndex.toNat + 16 - s.readIndex.toNat) % 16 := by
  rw [State.occupancy]
  bv_omega

/-- `BQ.WRITE` leaves the queue empty exactly at occupancy 15 (R122, R127). -/
theorem bqWrite_queueEmpty_iff (b : Bit) (s : State) : (bqWrite b s).queueEmpty = true ↔ s.occupancy = 15 := by
  have hlt := occupancy_lt s
  rw [queueEmpty_iff, bqWrite_occupancy]
  omega

/-- The command word of `BQ.WRITE` (R104, R105). -/
theorem toNat_encode_bqWrite (b : Bit) : (encode (.bqWrite b)).toNat = 0x1100000000 + b.toNat := by
  cases b <;> decide

/-- Settles O14, from what `BQ.WRITE` does to the cells, the occupancy and the ghost log. -/
theorem bqWriteStoresThenAdvances : Obligations.BqWriteStoresThenAdvances := by
  intro s bit
  have hwrite := bqWrite_eq bit s
  refine ⟨toNat_encode_bqWrite bit, (bqWrite bit s).returning .nothing, rfl, ?_, ?_, readCell_bqWrite_same bit s,
    readCell_bqWrite_ne bit s, ?_, ?_⟩
  · rw [hwrite]
    rfl
  · rw [State.returning_writeIndex, hwrite]
    exact BitVec.toNat_add _ _
  · rw [← occupancy_eq_mod]
    exact bqWrite_queueEmpty_iff bit s
  · rw [← occupancy_eq_mod, State.returning_errorLog, hwrite]

/-- Settles O15, by whether the queue is empty. -/
theorem bqReadReturnsTheBitAtTheReadIndex : Obligations.BqReadReturnsTheBitAtTheReadIndex := by
  refine ⟨by decide, fun s => ⟨(bqRead s).2.returning (.bitRead (bqRead s).1), rfl, ?_, ?_, ?_⟩⟩
  · rw [bqRead_frame]
    rfl
  · rw [bqRead_frame]
    exact fun _ => rfl
  · split
    next heq =>
      rw [bqRead_of_empty s (beq_iff_eq.mpr heq)]
      exact ⟨rfl, rfl⟩
    next hne =>
      rw [bqRead_of_nonempty s (beq_eq_false_iff_ne.mpr hne)]
      exact ⟨rfl, BitVec.toNat_add _ _⟩

end Sys2Proof.Machine
end

section
/-! The queue under scripts of writes and of reads (40_bit_queue_fifo.md R127, R128): writes leave unread the bits that
follow the last whole 16 of all queued, and reads return the unread bits. -/

namespace Sys2Proof.Machine

/-- The bits of a list that follow its last whole 16: what is unread of all the bits queued since the queue was last
empty (R127). -/
def lastMod16 (bits : List Bit) : List Bit := bits.drop (bits.length - bits.length % 16)

theorem length_lastMod16 (bits : List Bit) : (lastMod16 bits).length = bits.length % 16 := by
  have hle := Nat.mod_le bits.length 16
  rw [lastMod16, List.length_drop]
  omega

/-- Of at most 15 bits all are unread. -/
theorem lastMod16_of_lt (bits : List Bit) (h : bits.length < 16) : lastMod16 bits = bits := by
  rw [lastMod16, Nat.mod_eq_of_lt h, Nat.sub_self, List.drop_zero]

/-- Of 16 bits none is unread, so they do not count. -/
theorem lastMod16_append (first bits : List Bit) (h : first.length = 16) :
    lastMod16 (first ++ bits) = lastMod16 bits := by
  have hle := Nat.mod_le bits.length 16
  have hskip : first.length + bits.length - (first.length + bits.length) % 16 =
      first.length + (bits.length - bits.length % 16) := by omega
  rw [lastMod16, List.length_append, hskip, List.drop_length_add_append, lastMod16]

/-- A script of writes completes and leaves unread the last bits of those unread before and those written (R127). -/
theorem runScript_bqWrite (bits : List Bit) (s : State) :
    ∃ t, runScript (bits.map .bqWrite) s = .next t ∧ t.unread = lastMod16 (s.unread ++ bits) := by
  induction bits generalizing s with
  | nil =>
    have hfits : (s.unread ++ []).length < 16 := by simpa using occupancy_lt s
    exact ⟨s, rfl, by rw [lastMod16_of_lt _ hfits, List.append_nil]⟩
  | cons b bits ih =>
    obtain ⟨t, hrun, ht⟩ := ih ((bqWrite b s).returning .nothing)
    refine ⟨t, by rwa [List.map_cons, runScript_cons_of_next _ _ _ _ rfl], ?_⟩
    rw [ht, returning_unread, bqWrite_unread, List.append_cons s.unread b bits]
    split
    next hfull =>
      have hlen : (s.unread ++ [b]).length = 16 := by simp [hfull]
      rw [lastMod16_append _ _ hlen, List.nil_append]
    next => rfl

/-- One more `BQ.READ` than there are unread bits returns these in order and then `None` (R123, R128). -/
theorem scriptResults_bqRead (bits : List Bit) (s : State) (h : s.unread = bits) :
    scriptResults (List.replicate (bits.length + 1) .bqRead) s =
      bits.map (fun b => .bitRead (some b)) ++ [.bitRead none] := by
  induction bits generalizing s with
  | nil =>
    obtain ⟨hbit, -⟩ := bqRead_unread s
    rw [h] at hbit
    simp [scriptResults, exec, execBqRead, hbit]
  | cons b bits ih =>
    obtain ⟨hbit, hrest⟩ := bqRead_unread s
    rw [h] at hbit hrest
    have htail := ih ((bqRead s).2.returning (.bitRead (some b))) (by rw [returning_unread, hrest, List.tail_cons])
    rw [List.length_cons, List.replicate_succ, scriptResults]
    simp [exec, execBqRead, hbit, htail]

/-- Settles O17: the unread bits of at most 15 writes into an empty queue are all the bits written. -/
theorem queueRoundTripReturnsTheBitsInOrder : Obligations.QueueRoundTripReturnsTheBitsInOrder := by
  intro s bits hempty hlen
  obtain ⟨t, hrun, hunread⟩ := runScript_bqWrite bits s
  rw [unread_of_queueEmpty s hempty, List.nil_append, lastMod16_of_lt bits (by omega)] at hunread
  exact ⟨t, hrun, scriptResults_bqRead bits t hunread⟩

/-- Settles O18: after `BQ.RESET` the unread bits are the last of those written. -/
theorem overflowingWritesLeaveTheLastBitsReadable : Obligations.OverflowingWritesLeaveTheLastBitsReadable := by
  intro s bits
  obtain ⟨t, hrun, hunread⟩ := runScript_bqWrite bits ((bqReset s).returning .nothing)
  rw [returning_unread, bqReset_unread, List.nil_append] at hunread
  have hread := scriptResults_bqRead (lastMod16 bits) t hunread
  rw [length_lastMod16] at hread
  exact ⟨t, by rwa [runScript_cons_of_next _ _ _ _ rfl], hread⟩

end Sys2Proof.Machine
end

section
/-! Dead cells (40_bit_queue_fifo.md R129): an operation sees the cells through the unread bits only. Two states that
agree but for dead cells stay so under each operation of the blocks, so under every operation and every script. -/

namespace Sys2Proof.Machine

/-- The state with these queue cells. -/
def withCells (cells : CellStore) (s : State) : State := { s with q := cells }

/-- Two states agree but for dead cells when the second is the first with other cells and the same unread bits. -/
theorem sameButDeadCells_iff (s t : State) :
    SameButDeadCells s t ↔ ∃ cells, t = withCells cells s ∧ (withCells cells s).unread = s.unread := by
  constructor
  · rintro ⟨hrest, hunread⟩
    have ht : t = withCells t.q s := hrest
    exact ⟨t.q, ht, by rwa [← ht]⟩
  · rintro ⟨cells, rfl, hunread⟩
    exact ⟨rfl, hunread⟩

namespace SameButDeadCells

variable {s t : State}

theorem refl (s : State) : SameButDeadCells s s := ⟨rfl, rfl⟩

/-- The recorded result is no cell. -/
theorem result_eq (h : SameButDeadCells s t) : t.result = s.result := by rw [h.rest]

/-- An operation that leaves the cells and the unread bits alone keeps the agreement. -/
theorem map (f : State → State) (hcells : ∀ cells u, f (withCells cells u) = withCells cells (f u))
    (hunread : ∀ u, (f u).unread = u.unread) (h : SameButDeadCells s t) : SameButDeadCells (f s) (f t) := by
  obtain ⟨cells, rfl, hsame⟩ := (sameButDeadCells_iff s t).mp h
  exact (sameButDeadCells_iff _ _).mpr ⟨cells, hcells cells s, by rw [← hcells, hunread, hunread, hsame]⟩

/-- An operation that leaves the cells alone and the queue empty keeps the agreement: no cell is live after it. -/
theorem map_of_empties (f : State → State) (hcells : ∀ cells u, f (withCells cells u) = withCells cells (f u))
    (hunread : ∀ u, (f u).unread = []) (h : SameButDeadCells s t) : SameButDeadCells (f s) (f t) := by
  obtain ⟨cells, rfl, -⟩ := (sameButDeadCells_iff s t).mp h
  exact (sameButDeadCells_iff _ _).mpr ⟨cells, hcells cells s, by rw [← hcells, hunread, hunread]⟩

theorem returning (r : Result) (h : SameButDeadCells s t) : SameButDeadCells (s.returning r) (t.returning r) :=
  h.map (·.returning r) (fun _ _ => rfl) (returning_unread r)

/-! ### The queue -/

/-- A write puts the same bit behind the same unread bits, or leaves none (R127). -/
theorem bqWrite (b : Bit) (h : SameButDeadCells s t) :
    SameButDeadCells (Machine.bqWrite b s) (Machine.bqWrite b t) := by
  obtain ⟨cells, rfl, hunread⟩ := (sameButDeadCells_iff s t).mp h
  have hocc : (withCells cells s).occupancy = s.occupancy := rfl
  constructor
  · rw [bqWrite_eq, bqWrite_eq]
    rfl
  · rw [bqWrite_unread, bqWrite_unread, hocc, hunread]

/-- A read takes the first of the same unread bits (R123). -/
theorem bqRead (h : SameButDeadCells s t) :
    (Machine.bqRead t).1 = (Machine.bqRead s).1 ∧ SameButDeadCells (Machine.bqRead s).2 (Machine.bqRead t).2 := by
  have hbits := bqRead_unread s
  have hbits' := bqRead_unread t
  rw [h.unread] at hbits'
  refine ⟨hbits'.1.trans hbits.1.symm, ?_, hbits'.2.trans hbits.2.symm⟩
  obtain ⟨cells, rfl, -⟩ := (sameButDeadCells_iff s t).mp h
  cases he : s.queueEmpty with
  | true => rw [bqRead_of_empty s he, bqRead_of_empty (withCells cells s) he]; rfl
  | false => rw [bqRead_of_nonempty s he, bqRead_of_nonempty (withCells cells s) he]; rfl

/-! ### The sender and the sequencer -/

theorem srStep (h : SameButDeadCells s t) :
    (Machine.srStep t).1 = (Machine.srStep s).1 ∧ SameButDeadCells (Machine.srStep s).2 (Machine.srStep t).2 := by
  have hlow := h.map srLowPhase (fun _ _ => rfl) (fun _ => rfl)
  have hhigh := h.map srHighPhase (fun _ _ => rfl) (fun _ => rfl)
  obtain ⟨cells, rfl, -⟩ := (sameButDeadCells_iff s t).mp h
  have hphase : (withCells cells s).srPhase = s.srPhase := rfl
  have hfinished : (withCells cells s).srFinished = s.srFinished := rfl
  unfold Machine.srStep
  rw [hfinished, hphase]
  split
  · exact ⟨rfl, h⟩
  · split
    · exact ⟨rfl, hlow⟩
    · exact ⟨rfl, hhigh⟩

theorem advanceGlyph (h : SameButDeadCells s t) :
    SameButDeadCells (Machine.advanceGlyph s) (Machine.advanceGlyph t) := by
  refine h.map _ (fun cells u => ?_) (fun u => ?_)
  · simp only [Machine.advanceGlyph, apply_ite (withCells cells)]
    rfl
  · simp only [Machine.advanceGlyph, apply_ite State.unread]
    exact ite_self _

theorem mxNext (h : SameButDeadCells s t) : SameButDeadCells (Machine.mxNext s) (Machine.mxNext t) :=
  h.advanceGlyph.map (fun u => srLoad (glMask u.displayValue.toNat u.currentGlyph.toNat) (u.pinWrite .cnt true))
    (fun _ _ => rfl) (fun _ => rfl)

theorem mxFinished (h : SameButDeadCells s t) : SameButDeadCells (Machine.mxFinished s) (Machine.mxFinished t) := by
  have hidle := h.map (·.pinWrite .cnt false) (fun _ _ => rfl) (fun _ => rfl)
  have hticked :=
    (h.map (fun u => { u.pinWrite .cnt false with refreshNeeded := false }) (fun _ _ => rfl) (fun _ => rfl)).mxNext
  have hflag : t.refreshNeeded = s.refreshNeeded := by rw [h.rest]
  cases hr : s.refreshNeeded with
  | true => simpa [Machine.mxFinished, hflag, hr] using hticked
  | false => simpa [Machine.mxFinished, hflag, hr] using hidle

theorem mxStep (h : SameButDeadCells s t) : SameButDeadCells (Machine.mxStep s) (Machine.mxStep t) := by
  obtain ⟨hstatus, hstate⟩ := h.srStep
  unfold Machine.mxStep
  rw [hstatus]
  split
  · exact hstate.mxFinished
  all_goals exact hstate

end SameButDeadCells

/-! ### The framer -/

/-- Two operations that are refused alike, or complete with values that agree. -/
def OutcomesAgree {α : Type} (R : α → α → Prop) (x y : Except Refusal α) : Prop :=
  (∃ a b, x = .ok a ∧ y = .ok b ∧ R a b) ∨ ∃ r, x = .error r ∧ y = .error r

theorem OutcomesAgree.ok {α : Type} {R : α → α → Prop} {a b : α} (h : R a b) : OutcomesAgree R (.ok a) (.ok b) :=
  .inl ⟨a, b, rfl, rfl, h⟩

theorem OutcomesAgree.error {α : Type} {R : α → α → Prop} (r : Refusal) :
    OutcomesAgree R (.error r : Except Refusal α) (.error r) :=
  .inr ⟨r, rfl, rfl⟩

theorem OutcomesAgree.map {α : Type} {R : α → α → Prop} {x y : Except Refusal α} (f : α → α)
    (hf : ∀ a b, R a b → R (f a) (f b)) (h : OutcomesAgree R x y) : OutcomesAgree R (x.map f) (y.map f) := by
  rcases h with ⟨a, b, rfl, rfl, hab⟩ | ⟨r, rfl, rfl⟩
  · exact .ok (hf a b hab)
  · exact .error r

namespace SameButDeadCells

variable {s t : State}

theorem clearGroup (h : SameButDeadCells s t) : SameButDeadCells (Machine.clearGroup s) (Machine.clearGroup t) :=
  h.map _ (fun _ _ => rfl) (fun _ => rfl)

theorem takeBit (b : Bit) (h : SameButDeadCells s t) : SameButDeadCells (Machine.takeBit b s) (Machine.takeBit b t) :=
  h.map _ (fun _ _ => rfl) (fun _ => rfl)

theorem frEnd (h : SameButDeadCells s t) : SameButDeadCells (Machine.frEnd s) (Machine.frEnd t) :=
  h.map_of_empties _ (fun _ _ => rfl) (fun _ => bqReset_unread _)

theorem frPush (g : Group) (h : SameButDeadCells s t) :
    OutcomesAgree SameButDeadCells (Machine.frPush g s) (Machine.frPush g t) := by
  have hdiscard := h.map (·.signal .invalidDigitValue) (fun _ _ => rfl) (fun _ => rfl)
  have haccept := h.map (acceptDigit g) (fun _ _ => rfl) (fun _ => rfl)
  have hcount : t.digitCount = s.digitCount := by rw [h.rest]
  unfold Machine.frPush
  rw [hcount]
  split
  · exact .error _
  · split
    · exact .ok hdiscard
    · exact .ok haccept

theorem frBit (b : Bit) (h : SameButDeadCells s t) :
    OutcomesAgree SameButDeadCells (Machine.frBit b s) (Machine.frBit b t) := by
  have htake := h.takeBit b
  have hinput : (Machine.takeBit b t).serInput = (Machine.takeBit b s).serInput := by rw [htake.rest]
  have hpos : (Machine.takeBit b t).serInputPos = (Machine.takeBit b s).serInputPos := by rw [htake.rest]
  rw [frBit_eq, frBit_eq, hinput, hpos]
  split
  · exact (htake.frPush _).map _ fun _ _ => clearGroup
  · exact .ok htake

theorem frTmo (h : SameButDeadCells s t) : OutcomesAgree SameButDeadCells (Machine.frTmo s) (Machine.frTmo t) := by
  have hcount := h.map (fun u => { u with timeoutCounter := u.timeoutCounter - 1 }) (fun _ _ => rfl) (fun _ => rfl)
  have habort := hcount.map_of_empties abortFrame (fun _ _ => rfl) (fun _ => bqReset_unread _)
  have hwatchdog : t.timeoutCounter = s.timeoutCounter := by rw [h.rest]
  unfold Machine.frTmo
  simp only [hwatchdog] at hcount habort ⊢
  split
  · exact .error _
  · split
    · exact .ok habort
    · exact .ok hcount

theorem bookkeeping (h : SameButDeadCells s t) :
    OutcomesAgree SameButDeadCells (Machine.bookkeeping s) (Machine.bookkeeping t) := by
  have htick := h.map (fun u => { u with refreshNeeded := false }) (fun _ _ => rfl) (fun _ => rfl)
  have hflag : t.refreshNeeded = s.refreshNeeded := by rw [h.rest]
  unfold Machine.bookkeeping
  rw [hflag]
  split
  · exact htick.frTmo
  · exact .ok h

/-- The drain loop reads the same bits, so it ends the same way (R207). -/
theorem drain (k : Nat) (h : SameButDeadCells s t) :
    OutcomesAgree (fun x y => y.1 = x.1 ∧ SameButDeadCells x.2 y.2) (Machine.drain k s) (Machine.drain k t) := by
  induction k generalizing s t with
  | zero => exact .ok ⟨rfl, h⟩
  | succ k ih =>
    obtain ⟨hbit, hread⟩ := h.bqRead
    rw [Machine.drain, Machine.drain]
    revert hbit hread
    obtain ⟨bit, s'⟩ := Machine.bqRead s
    obtain ⟨bit', t'⟩ := Machine.bqRead t
    rintro rfl hread
    cases bit' with
    | none => exact .ok ⟨rfl, hread⟩
    | some b =>
      rcases hread.frBit b with ⟨u, v, hu, hv, huv⟩ | ⟨r, hs, ht⟩
      · have hdigits : v.digitCount = u.digitCount := by rw [huv.rest]
        simp only [hu, hv, hdigits]
        split
        · exact .ok ⟨rfl, huv.frEnd⟩
        · exact ih huv
      · simp only [hs, ht]
        exact .error r

theorem frIter (h : SameButDeadCells s t) : OutcomesAgree SameButDeadCells (Machine.frIter s) (Machine.frIter t) := by
  have hbegin := h.map frBegin (fun _ _ => rfl) (fun _ => rfl)
  have hmode : t.inputMode = s.inputMode := by rw [h.rest]
  have hwatchdog : t.timeoutCounter = s.timeoutCounter := by rw [h.rest]
  have hstart : SameButDeadCells (if s.timeoutCounter = 0 then frBegin s else s)
      (if s.timeoutCounter = 0 then frBegin t else t) := by
    split
    · exact hbegin
    · exact h
  unfold Machine.frIter
  rw [hmode, hwatchdog]
  split
  · rcases hstart.drain Config.qcap with ⟨⟨e, u⟩, ⟨e', v⟩, hu, hv, he, huv⟩ | ⟨r, hs, ht⟩
    · obtain rfl : e' = e := he
      rw [hu, hv]
      cases e' with
      | completed => exact .ok huv
      | emptied => exact huv.bookkeeping
    · rw [hs, ht]
      exact .error r
  · exact .error _

/-! ### The agents -/

theorem irqEdge (level : Bit) (h : SameButDeadCells s t) :
    SameButDeadCells (Machine.irqEdge level s) (Machine.irqEdge level t) := by
  have hannounce := h.map (fun u => { u with inputMode := true }) (fun _ _ => rfl) (fun _ => rfl)
  have hmode : t.inputMode = s.inputMode := by rw [h.rest]
  unfold Machine.irqEdge
  rw [hmode]
  split
  · exact h.bqWrite level
  · exact hannounce

theorem coreIter (h : SameButDeadCells s t) :
    OutcomesAgree SameButDeadCells (Machine.coreIter s) (Machine.coreIter t) := by
  have hmode : t.inputMode = s.inputMode := by rw [h.rest]
  unfold Machine.coreIter
  rw [hmode]
  split
  · exact h.frIter
  · exact .ok h.mxStep

/-- Reset replaces every cell, and keeps of the state only what is no cell (R47). -/
theorem coreRst (h : SameButDeadCells s t) : SameButDeadCells (Machine.coreRst s) (Machine.coreRst t) := by
  obtain ⟨cells, rfl, -⟩ := (sameButDeadCells_iff s t).mp h
  exact .refl _

end SameButDeadCells

/-! ### Every operation, every script -/

theorem answersAgree_answer {s t : State} (r : Result) (h : SameButDeadCells s t) :
    AnswersAgree (answer r s) (answer r t) := h.returning r

theorem answersAgree_done {s t : State} (h : SameButDeadCells s t) : AnswersAgree (done s) (done t) :=
  h.returning .nothing

theorem answersAgree_settle {x y : Except Refusal State} (h : OutcomesAgree SameButDeadCells x y) :
    AnswersAgree (settle x) (settle y) := by
  rcases h with ⟨u, v, rfl, rfl, huv⟩ | ⟨r, rfl, rfl⟩
  · exact answersAgree_done huv
  · rfl

/-- The two ways in which answers agree. -/
theorem AnswersAgree.cases {x y : Answer} (h : AnswersAgree x y) :
    (∃ s t, x = .next s ∧ y = .next t ∧ SameButDeadCells s t) ∨ ∃ r, x = .refused r ∧ y = .refused r := by
  unfold AnswersAgree at h
  split at h
  · exact .inl ⟨_, _, rfl, rfl, h⟩
  · exact .inr ⟨_, rfl, by rw [h]⟩
  · exact h.elim

/-- Every operation answers alike in two states that agree but for dead cells (R129). -/
theorem exec_answersAgree (i : Instr) {s t : State} (h : SameButDeadCells s t) :
    AnswersAgree (exec i s) (exec i t) := by
  cases i with
  | coreRst => exact answersAgree_done h.coreRst
  | coreIter => exact answersAgree_settle h.coreIter
  | bqReset => exact answersAgree_done (h.map_of_empties bqReset (fun _ _ => rfl) bqReset_unread)
  | bqWrite bit => exact answersAgree_done (h.bqWrite bit)
  | bqRead =>
    obtain ⟨hbit, hstate⟩ := h.bqRead
    rw [exec, exec, execBqRead, execBqRead, hbit]
    exact answersAgree_answer _ hstate
  | srLoad value => exact answersAgree_done (h.map (srLoad value) (fun _ _ => rfl) (fun _ => rfl))
  | srStep =>
    obtain ⟨hstatus, hstate⟩ := h.srStep
    rw [exec, exec, execSrStep, execSrStep, hstatus]
    exact answersAgree_answer _ hstate
  | glMatch glyph digit => exact answersAgree_answer _ h
  | glMask value glyph => exact answersAgree_answer _ h
  | mxNext => exact answersAgree_done h.mxNext
  | mxStep => exact answersAgree_done h.mxStep
  | frBegin => exact answersAgree_done (h.map frBegin (fun _ _ => rfl) (fun _ => rfl))
  | frBit bit => exact answersAgree_settle (h.frBit bit)
  | frPush group => exact answersAgree_settle (h.frPush group)
  | frEnd => exact answersAgree_done h.frEnd
  | frTmo => exact answersAgree_settle h.frTmo
  | frIter => exact answersAgree_settle h.frIter
  | irqEdge level => exact answersAgree_done (h.irqEdge level)
  | irqTick => exact answersAgree_done (h.map irqTick (fun _ _ => rfl) (fun _ => rfl))

/-- Settles O19, by induction on the script: the operations answer alike, and the next states still agree. -/
theorem deadCellsAreUnobservable : Obligations.DeadCellsAreUnobservable := by
  intro script
  induction script with
  | nil => exact fun s t h => ⟨h, rfl⟩
  | cons i rest ih =>
    intro s t h
    unfold runScript scriptResults
    rcases (exec_answersAgree i h).cases with ⟨u, v, hs, ht, huv⟩ | ⟨r, hs, ht⟩
    · obtain ⟨hrun, hresults⟩ := ih u v huv
      rw [hs, ht]
      exact ⟨hrun, by simp only [hresults, huv.result_eq]⟩
    · rw [hs, ht]
      exact ⟨rfl, rfl⟩

end Sys2Proof.Machine
end

section
/-! The block shift_register_bit_banger (41_shift_register_bit_banger.md R141 to R145): its two operations, and the
statuses and pin events of one byte, call by call. -/

namespace Sys2Proof.Machine

/-! ### One operation -/

/-- A command word as a number: the opcode stands above the 32 bits of the operand field (R103). -/
theorem toNat_encode (i : Instr) :
    (encode i).toNat = (encodeOpcode i).toNat * 2 ^ 32 + (encodeOperand i).toNat := by
  rw [encode, BitVec.toNat_append, ← Nat.shiftLeft_add_eq_or_of_lt (encodeOperand i).isLt, Nat.shiftLeft_eq]

/-- Settles O20: the operand field of `SR.LOAD` is the byte, and its next state is that of `srLoad`. -/
theorem srLoadStartsAByteAndWritesNoPin : Obligations.SrLoadStartsAByteAndWritesNoPin := by
  refine fun s value => ⟨?_, rfl⟩
  have hoperand : (encodeOperand (.srLoad value)).toNat = value.toNat :=
    BitVec.toNat_setWidth_of_le (by decide)
  have hopcode : (encodeOpcode (.srLoad value)).toNat = 0x20 := rfl
  rw [toNat_encode, hopcode, hoperand]
  norm_num

/-- A call completes with the state and the status of `srStep` (R142). -/
theorem exec_srStep_of_eq {s u : State} {status : Status} (h : srStep s = (status, u)) :
    exec .srStep s = .next (u.returning (.status status)) := by
  rw [exec, execSrStep, h, answer_eq]

/-- Settles O21, by whether the sender is finished and which phase is pending. -/
theorem srStepIssuesOneClockPhase : Obligations.SrStepIssuesOneClockPhase := by
  refine ⟨by decide, fun s hle => ?_⟩
  split
  next hfinished => exact ⟨_, exec_srStep_of_eq (srStep_of_finished s hfinished), rfl⟩
  next hsending =>
    have hlt : s.srBitIndex.toNat < 8 := by omega
    split
    next hlow =>
      refine ⟨_, exec_srStep_of_eq (srStep_of_low s hsending hlow), ?_⟩
      rw [← dataBit_of_le s.srValue s.srBitIndex.toNat (by omega), List.append_cons]
      rfl
    next hnotLow =>
      have hhigh : s.srPhase = .highPending := by
        cases hp : s.srPhase with
        | lowPending => exact absurd hp hnotLow
        | highPending => rfl
      refine ⟨_, exec_srStep_of_eq (srStep_of_high s hlt hhigh), rfl, ?_⟩
      rw [State.returning_srBitIndex, srHighPhase_srBitIndex, toNat_fit _ _ (by omega)]

/-! ### What a script returns -/

/-- A script whose first operation completes returns its result, then those of the rest. -/
theorem scriptResults_cons_of_next (i : Instr) (rest : List Instr) (s t : State) (h : exec i s = .next t) :
    scriptResults (i :: rest) s = t.result :: scriptResults rest t := by
  rw [scriptResults, h]

/-- A script whose first part completes returns the results of both parts in turn. -/
theorem scriptResults_append_of_next (first second : List Instr) (s t : State) (h : runScript first s = .next t) :
    scriptResults (first ++ second) s = scriptResults first s ++ scriptResults second t := by
  induction first generalizing s with
  | nil =>
    cases h
    rfl
  | cons i rest ih =>
    cases hi : exec i s with
    | next u =>
      rw [runScript_cons_of_next _ _ s u hi] at h
      rw [List.cons_append, scriptResults_cons_of_next _ _ s u hi, scriptResults_cons_of_next _ _ s u hi, ih u h,
        List.cons_append]
    | fault f => simp [runScript, hi] at h
    | refused r => simp [runScript, hi] at h

/-! ### The statuses of one byte -/

/-- What the two calls that send bit `k` return (R142). -/
def bitStatuses (k : Nat) : List Result :=
  [.status (if k = 0 then .beginning else .middle), .status (if k = 7 then .last else .middle)]

/-- The two calls that send bit `k` return its statuses. -/
theorem scriptResults_two_srStep (value : Byte) (s : State) (k : Nat) (hk : k < 8) (r : Result) :
    scriptResults [.srStep, .srStep] ((afterBits value s k).returning r) = bitStatuses k := by
  have hindex : (afterBits value s k).srBitIndex.toNat = k := afterBits_srBitIndex value s k (by omega)
  have hlow := exec_srStep_of_eq (srStep_of_low ((afterBits value s k).returning r)
    (by rw [State.returning_srBitIndex]; omega) rfl)
  have hhigh := fun r' => exec_srStep_of_eq (srStep_of_high
    ((srLowPhase ((afterBits value s k).returning r)).returning r') (hindex.trans_lt hk) rfl)
  rw [scriptResults_cons_of_next _ _ _ _ hlow, scriptResults_cons_of_next _ _ _ _ (hhigh _)]
  simp only [State.returning_result, State.returning_srBitIndex, srLowPhase_srBitIndex, hindex]
  rfl

/-- After `SR.LOAD`, the first `2k` calls return the statuses of the first `k` bits (R143). -/
theorem scriptResults_afterBits (value : Byte) (s : State) (k : Nat) (hk : k ≤ 8) :
    scriptResults (.srLoad value :: List.replicate (2 * k) .srStep) s =
      .nothing :: (List.range k).flatMap bitStatuses := by
  induction k with
  | zero => rfl
  | succ k ih =>
    obtain ⟨r, hfirst⟩ := runScript_afterBits value s k (by omega)
    have hnext : scriptResults (List.replicate 2 .srStep) ((afterBits value s k).returning r) = bitStatuses k :=
      scriptResults_two_srStep value s k hk r
    rw [Nat.mul_succ, List.replicate_add, ← List.cons_append, scriptResults_append_of_next _ _ _ _ hfirst,
      ih (by omega), hnext, List.range_succ, List.flatMap_append, List.flatMap_singleton, List.cons_append]

/-- Every call of a finished sender returns `Finished` (R145). -/
theorem scriptResults_srStep_of_finished (n : Nat) (s : State) (h : s.srBitIndex.toNat = 8) :
    scriptResults (List.replicate n .srStep) s = List.replicate n (.status .finished) := by
  induction n generalizing s with
  | zero => rfl
  | succ n ih =>
    have hcall := exec_srStep_of_eq (srStep_of_finished s h)
    have hrest := ih (s.returning (.status .finished)) h
    rw [List.replicate_succ, scriptResults_cons_of_next _ _ _ _ hcall, hrest]
    rfl

/-- Settles O22: the statuses of the eight bits, then those of a finished sender. -/
theorem statusSequenceOfOneByte : Obligations.StatusSequenceOfOneByte := by
  intro s value more
  obtain ⟨r, hsent⟩ := runScript_afterBits value s 8 le_rfl
  have hfinished : ((afterBits value s 8).returning r).srBitIndex.toNat = 8 := afterBits_srBitIndex value s 8 le_rfl
  obtain ⟨r', hlater⟩ := runScript_srStep_of_finished more ((afterBits value s 8).returning r) hfinished
  have hsplit : (.srLoad value :: List.replicate (16 + more) .srStep : List Instr) =
      (.srLoad value :: List.replicate (2 * 8) .srStep) ++ List.replicate more .srStep := by
    rw [List.replicate_add, List.cons_append]
  rw [hsplit]
  refine ⟨?_, _, ((afterBits value s 8).returning r).returning r', hsent, (srFinished_iff _).mpr hfinished, ?_, rfl⟩
  · rw [scriptResults_append_of_next _ _ _ _ hsent, scriptResults_afterBits value s 8 le_rfl,
      scriptResults_srStep_of_finished more _ hfinished]
    rfl
  · rw [runScript_append_of_next _ _ _ _ hsent, hlater]

/-! ### The pin events of one byte -/

/-- Three events for each bit (R144). -/
theorem length_firstBitEvents (value : Byte) (k : Nat) : (firstBitEvents value k).length = 3 * k := by
  induction k with
  | zero => rfl
  | succ k ih => rw [firstBitEvents, List.length_append, ih, Nat.mul_succ]; rfl

/-- The events of more bits begin with those of fewer. -/
theorem firstBitEvents_eq_append (value : Byte) (k n : Nat) (h : k ≤ n) :
    ∃ rest, firstBitEvents value n = firstBitEvents value k ++ rest := by
  induction n, h using Nat.le_induction with
  | base => exact ⟨[], (List.append_nil _).symm⟩
  | succ n _ ih =>
    obtain ⟨rest, hrest⟩ := ih
    exact ⟨rest ++ bitEvents (value.getLsbD (7 - n)), by rw [firstBitEvents, hrest, List.append_assoc]⟩

/-- Between bits the first `3k` events of the byte have happened (R144). -/
theorem take_byteEvents (value : Byte) (k : Nat) (hk : k ≤ 8) :
    (byteEvents value).take (3 * k) = firstBitEvents value k := by
  obtain ⟨rest, hbyte⟩ := firstBitEvents_eq_append value k 8 hk
  rw [← firstBitEvents_eight, hbyte]
  exact List.take_left' (length_firstBitEvents value k)

/-- Within bit `k` two events more have happened: the fall of the clock and the data (R144). -/
theorem take_byteEvents_add_two (value : Byte) (k : Nat) (hk : k < 8) :
    (byteEvents value).take (3 * k + 2) =
      firstBitEvents value k ++ [⟨.clk, false⟩, ⟨.ser, value.getLsbD (7 - k)⟩] := by
  obtain ⟨rest, hbyte⟩ := firstBitEvents_eq_append value (k + 1) 8 hk
  have hwithin : byteEvents value =
      (firstBitEvents value k ++ [⟨.clk, false⟩, ⟨.ser, value.getLsbD (7 - k)⟩]) ++ (⟨.clk, true⟩ :: rest) := by
    rw [← firstBitEvents_eight, hbyte]
    simp [firstBitEvents, bitEvents]
  rw [hwithin]
  exact List.take_left' (by rw [List.length_append, length_firstBitEvents]; rfl)

/-- The first call of bit `k` appends the fall of the clock and the data (R142, R144). -/
theorem srLowPhase_afterBits_trace (value : Byte) (s : State) (k : Nat) (hk : k < 8) (r : Result) :
    (srLowPhase ((afterBits value s k).returning r)).trace =
      s.trace ++ (firstBitEvents value k ++ [⟨.clk, false⟩, ⟨.ser, value.getLsbD (7 - k)⟩]) := by
  rw [srLowPhase_trace, State.returning_srBitIndex, afterBits_srBitIndex value s k (by omega),
    dataBit_of_le _ _ (by omega)]
  simp [afterBits]

/-- Settles O23: the state after `2k` calls is known, and one call more runs the low phase of bit `k`. -/
theorem pinSequenceOfOneByte : Obligations.PinSequenceOfOneByte := by
  intro s value k hk
  obtain ⟨r, hsent⟩ := runScript_afterBits value s k hk
  constructor
  · exact ⟨_, hsent, by rw [take_byteEvents value k hk]; rfl⟩
  · intro hlt
    have hindex : ((afterBits value s k).returning r).srBitIndex.toNat = k := afterBits_srBitIndex value s k hk
    obtain ⟨r', hlow⟩ := exec_srStep_of_low ((afterBits value s k).returning r) (by omega) rfl
    refine ⟨(srLowPhase ((afterBits value s k).returning r)).returning r', ?_, ?_⟩
    · rw [List.replicate_add, ← List.cons_append, runScript_append_of_next _ _ _ _ hsent]
      exact runScript_cons_of_next _ [] _ _ hlow
    · rw [State.returning_trace, srLowPhase_afterBits_trace value s k hlt, take_byteEvents_add_two value k hlt]

end Sys2Proof.Machine
end

section
/-! The block glyph_lut_decoder (42_glyph_lut_decoder.md R161 to R169): the glyph relation and the mask over all their
operands, those outside the domain of R164 as well. -/

namespace Sys2Proof.Machine

/-! ### Operands outside the domain -/

/-- The glyph that carries no data matches no digit (R164). -/
theorem glMatch_of_glyph_gt (glyph digit : Nat) (h : 14 < glyph) : glMatch glyph digit = false :=
  if_pos h

/-- An operand above 9 is no digit and matches no glyph (R164). -/
theorem glMatch_of_digit_gt (glyph digit : Nat) (h : 9 < digit) : glMatch glyph digit = false := by
  rw [glMatch, if_pos h, ite_self]

/-- The table has no row for a glyph that carries no data (R163). -/
theorem matchingDigits_of_gt (glyph : Nat) (h : 14 < glyph) : matchingDigits glyph = [] := by
  obtain ⟨k, rfl⟩ : ∃ k, glyph = k + 15 := ⟨glyph - 15, by omega⟩
  rfl

/-- The table has no column above 9 (R163). -/
theorem le_of_mem_matchingDigits (glyph digit : Nat) (h : digit ∈ matchingDigits glyph) : digit ≤ 9 := by
  rcases Nat.lt_or_ge 14 glyph with hno | hdata
  · rw [matchingDigits_of_gt glyph hno] at h
    exact absurd h List.not_mem_nil
  · have hall : ∀ glyph ≤ 14, ∀ digit ∈ matchingDigits glyph, digit ≤ 9 := by decide
    exact hall glyph hdata digit h

/-! ### The relation and the mask over all operands -/

/-- The clauses of R161 are the table of R163, within the domain by the table itself and empty outside it. -/
theorem glMatch_eq_decide_mem (glyph digit : Nat) :
    glMatch glyph digit = decide (digit ∈ matchingDigits glyph) := by
  rcases Nat.lt_or_ge 14 glyph with hno | hdata
  · simp [glMatch_of_glyph_gt glyph digit hno, matchingDigits_of_gt glyph hno]
  · rcases Nat.lt_or_ge 9 digit with hbig | hdigit
    · have hmem : digit ∉ matchingDigits glyph := fun h => by
        have := le_of_mem_matchingDigits glyph digit h
        omega
      rw [glMatch_of_digit_gt glyph digit hbig, decide_eq_false hmem]
    · rw [Bool.eq_iff_iff, decide_eq_true_iff]
      exact glMatch_iff_mem glyph digit hdata hdigit

/-- `GL.MASK` of a glyph that carries no data is the mask of its number: it has no bit set (R164, R166). -/
theorem isMaskOf_glMask_of_gt (value glyph : Nat) (h : 14 < glyph) : IsMaskOf (glMask value glyph) value glyph := by
  intro p hp
  rw [glMask, getLsbD_glMaskBelow _ _ _ _ hp, glMatch_of_glyph_gt _ _ h, matchingDigits_of_gt _ h]
  simp

/-! ### The two operations -/

/-- A field above a nibble counts sixteenfold (formats GD and VG, R105). -/
theorem toNat_append_nibble {width : Nat} (high : BitVec width) (low : Nibble) :
    (high ++ low).toNat = 16 * high.toNat + low.toNat := by
  rw [BitVec.toNat_append, ← Nat.shiftLeft_add_eq_or_of_lt low.isLt, Nat.shiftLeft_eq, Nat.mul_comm]

/-- The command word of `GL.MATCH` (R104, R105). -/
theorem toNat_encode_glMatch (glyph digit : Nibble) :
    (encode (.glMatch glyph digit)).toNat = 0x3000000000 + 16 * glyph.toNat + digit.toNat := by
  have hoperand : (encodeOperand (.glMatch glyph digit)).toNat = 16 * glyph.toNat + digit.toNat := by
    rw [encodeOperand, BitVec.toNat_setWidth_of_le (by decide), toNat_append_nibble]
  have hopcode : (encodeOpcode (.glMatch glyph digit)).toNat = 0x30 := rfl
  rw [toNat_encode, hopcode, hoperand]
  omega

/-- The command word of `GL.MASK` (R104, R105). -/
theorem toNat_encode_glMask (value : BitVec 28) (glyph : Nibble) :
    (encode (.glMask value glyph)).toNat = 0x3100000000 + 16 * value.toNat + glyph.toNat := by
  have hoperand : (encodeOperand (.glMask value glyph)).toNat = 16 * value.toNat + glyph.toNat :=
    toNat_append_nibble value glyph
  have hopcode : (encodeOpcode (.glMask value glyph)).toNat = 0x31 := rfl
  rw [toNat_encode, hopcode, hoperand]
  omega

/-- Settles O26: the byte returned is the mask of the number, by whether the glyph carries data. -/
theorem glMaskSetsExactlyTheMatchingPositions : Obligations.GlMaskSetsExactlyTheMatchingPositions := by
  intro s value glyph
  refine ⟨toNat_encode_glMask value glyph, glMask value.toNat glyph.toNat, rfl, ?_⟩
  rcases Nat.lt_or_ge 14 glyph.toNat with hno | hdata
  · exact isMaskOf_glMask_of_gt value.toNat glyph.toNat hno
  · exact isMaskOf_glMask value.toNat glyph.toNat hdata

/-- Settles O25: the bit returned is that of the relation, which is the table. -/
theorem glMatchIsTheWorkedOutRelation : Obligations.GlMatchIsTheWorkedOutRelation := by
  intro s glyph digit
  refine ⟨toNat_encode_glMatch glyph digit, ?_⟩
  rw [← glMatch_eq_decide_mem]
  rfl

end Sys2Proof.Machine
end

section
/-! The block display_multiplex_sequencer (43_display_multiplex_sequencer.md R181 to R188): its two operations, the glyph
cursor over many cycles, and what display mode keeps. -/

namespace Sys2Proof.Machine

/-! ### Starting a cycle -/

/-- Settles O27: the fields are those of `mxNext_eq`, and the byte loaded is the mask of a glyph that carries data. -/
theorem mxNextStartsAGlyphCycle : Obligations.MxNextStartsAGlyphCycle := by
  refine ⟨by decide, fun s hle => ⟨(mxNext s).returning .nothing, rfl, ?_⟩⟩
  obtain ⟨hnext, hglyph⟩ := mxNext_eq s hle
  rw [hnext]
  refine ⟨rfl, hglyph, isMaskOf_glMask _ _ ?_⟩
  show (advanceGlyph s).currentGlyph.toNat ≤ 14
  omega

/-! ### One step of the sequencer -/

/-- `SR.STEP` of a sender that still has a bit to send does not return `Finished`: the call that sends the last bit
returns `Last` (R142). -/
theorem srStep_status_ne_finished (s : State) (h : s.srBitIndex.toNat < 8) : (srStep s).1 ≠ .finished := by
  cases hp : s.srPhase with
  | lowPending =>
    rw [srStep_of_low s (Nat.ne_of_lt h) hp]
    split <;> simp
  | highPending =>
    rw [srStep_of_high s h hp]
    split <;> simp

/-- Settles O28, by whether the sender is finished, and then whether a tick is pending. -/
theorem mxStepStartsACycleOnlyWhenFinishedAndTicked : Obligations.MxStepStartsACycleOnlyWhenFinishedAndTicked := by
  refine ⟨by decide, fun s hs => ⟨(srStep s).2.returning (.status (srStep s).1), (mxStep s).returning .nothing,
    rfl, rfl, ?_⟩⟩
  rcases Nat.lt_or_eq_of_le hs.bitIndex_le with hsending | hfinished
  · have hstatus : Result.status (srStep s).1 ≠ .status .finished :=
      fun h => srStep_status_ne_finished s hsending (Result.status.inj h)
    rw [State.returning_result, if_neg hstatus, mxStep_of_sending s hsending]
    rfl
  · rw [State.returning_result, srStep_of_finished s hfinished, if_pos rfl, mxStep_of_finished s hfinished]
    intro low
    by_cases htick : s.refreshNeeded = true
    · rw [if_pos htick, if_pos htick]
      rfl
    · rw [if_neg htick, if_neg htick]
      rfl

/-! ### Many cycles -/

/-- The reset line is raised at the opening of a cycle exactly when the cursor wraps (items 1 and 2 of R94). -/
theorem count_rst_openingEvents (glyphBefore : Nat) :
    (openingEvents glyphBefore).count ⟨.rst, true⟩ = if glyphBefore = 14 then 1 else 0 := by
  unfold openingEvents
  split <;> rfl

/-- The count line is raised once at the opening of a cycle (items 1 and 2 of R94). -/
theorem count_cnt_openingEvents (glyphBefore : Nat) : (openingEvents glyphBefore).count ⟨.cnt, true⟩ = 1 := by
  unfold openingEvents
  split <;> rfl

/-- Settles O29, by induction on the number of cycles: the first opens its cycle and moves the cursor one place, and the
others go on from there. -/
theorem glyphCursorGoesRoundFifteenGlyphs : Obligations.GlyphCursorGoesRoundFifteenGlyphs := by
  intro s k hle
  induction k generalizing s with
  | zero => exact ⟨s, [], rfl, by omega, (List.append_nil _).symm, by simp; omega, rfl⟩
  | succ k ih =>
    obtain ⟨u, hfirst, hu, hglyph, -⟩ := mxNextStartsAGlyphCycle.2 s hle
    have hopen : u.trace = s.trace ++ openingEvents s.currentGlyph.toNat := by rw [hu]
    obtain ⟨t, added, hrest, hcursor, htrace, hrst, hcnt⟩ := ih u (by omega)
    refine ⟨t, openingEvents s.currentGlyph.toNat ++ added, ?_, by omega, ?_, ?_, ?_⟩
    · rw [List.replicate_succ, runScript_cons_of_next _ _ _ _ hfirst, hrest]
    · rw [htrace, hopen, List.append_assoc]
    · rw [List.count_append, count_rst_openingEvents, hrst]
      split <;> omega
    · rw [List.count_append, count_cnt_openingEvents, hcnt, Nat.add_comm]

/-! ### What display mode keeps -/

/-- Settles O53: an edge event only sets the mode, a tick only its flag, and an iteration is a step of the sequencer, which
writes neither the number nor the framer. -/
theorem displayModeKeepsTheNumber : Obligations.DisplayModeKeepsTheNumber := by
  intro s t e hm hne h
  cases e with
  | edge level =>
    cases h
    rw [irqEdge_frame]
    exact ⟨rfl, rfl, rfl, rfl, rfl, rfl⟩
  | tick =>
    cases h
    exact ⟨rfl, rfl, rfl, rfl, rfl, rfl⟩
  | iteration =>
    cases (exec_coreIter_of_display s hm).symm.trans h
    rw [mxStep_frame]
    exact ⟨rfl, rfl, rfl, rfl, rfl, rfl⟩
  | reset => exact absurd rfl hne

end Sys2Proof.Machine
end

section
/-! The block serial_input_framer_with_timeout, operation by operation (44_serial_input_framer.md R202 to R206). -/

namespace Sys2Proof.Machine

/-! ### The start and the end of a frame -/

/-- Settles O31: the watchdog is loaded with `MAX_TIMEOUT`, which is not 0, so in input mode the framer accumulates. -/
theorem frBeginClearsTheFrameAndLoadsTheWatchdog : Obligations.FrBeginClearsTheFrameAndLoadsTheWatchdog := by
  refine ⟨by decide, fun s => ⟨(frBegin s).returning .nothing, rfl, rfl, rfl, fun hm => ?_⟩⟩
  have hloaded : ((frBegin s).returning .nothing).timeoutCounter ≠ 0 := by
    rw [State.returning_timeoutCounter, frBegin_timeoutCounter]
    decide
  exact (framerState_eq_accumulating _).mpr ⟨hm, hloaded⟩

/-- Settles O34: display mode is the idle framer, and the reset of the queue writes no cell. -/
theorem frEndLeavesInputMode : Obligations.FrEndLeavesInputMode :=
  ⟨by decide, fun s => ⟨(frEnd s).returning .nothing, rfl, rfl, (framerState_eq_idle _).mpr rfl, fun _ => rfl⟩⟩

/-! ### The watchdog -/

/-- `FR.TMO` executes as its block operation, settled into an answer. -/
theorem exec_frTmo_eq_settle (s : State) : exec .frTmo s = settle (frTmo s) := rfl

/-- Settles O35, by the three cases of the watchdog: not loaded, at its last tick, above it. -/
theorem frTmoCountsDownOrAbortsTheFrame : Obligations.FrTmoCountsDownOrAbortsTheFrame := by
  refine ⟨by decide, fun s => ?_⟩
  rw [exec_frTmo_eq_settle]
  rcases frTmo_cases s with ⟨hzero, ht⟩ | ⟨hone, ht⟩ | ⟨htwo, ht⟩ <;> rw [ht]
  · exact ⟨fun _ => rfl, fun h => absurd hzero h⟩
  · refine ⟨fun h => by omega, fun _ => ⟨_, settle_ok _, ?_⟩⟩
    rw [if_pos hone]
    rfl
  · refine ⟨fun h => by omega, fun _ => ⟨_, settle_ok _, ?_⟩⟩
    rw [if_neg (by omega)]
    refine ⟨rfl, ?_⟩
    show (s.timeoutCounter - 1).toNat = _
    bv_omega

/-! ### A group -/

/-- The command word of `FR.PUSH` (R104, R105). -/
theorem toNat_encode_frPush (group : Group) : (encode (.frPush group)).toNat = 0x5200000000 + group.toNat := by
  have hoperand : (encodeOperand (.frPush group)).toNat = group.toNat := BitVec.toNat_setWidth_of_le (by decide)
  have hopcode : (encodeOpcode (.frPush group)).toNat = 0x52 := rfl
  rw [toNat_encode, hopcode, hoperand]
  norm_num

/-- `FR.PUSH` executes as its block operation, settled into an answer. -/
theorem exec_frPush_eq_settle (group : Group) (s : State) : exec (.frPush group) s = settle (frPush group s) := rfl

/-- Settles O32, by the three cases of a push: no room, no digit, a digit. -/
theorem frPushAcceptsADigitOrDiscardsTheGroup : Obligations.FrPushAcceptsADigitOrDiscardsTheGroup := by
  intro s group
  rw [exec_frPush_eq_settle]
  refine ⟨toNat_encode_frPush group, fun hfull => by rw [frPush_of_full group s hfull, settle_error],
    fun hs hroom => ?_⟩
  rcases frPush_cases group s with ⟨hfull, -⟩ | ⟨-, hinvalid, hp⟩ | ⟨-, hdigit, hp⟩
  · omega
  · exact ⟨_, by rw [hp, settle_ok], by rw [← groupVal, if_pos hinvalid]; rfl⟩
  · obtain ⟨hvalue, -, hcount⟩ := acceptDigit_numbers group s hroom hs.value_lt hdigit
    refine ⟨_, by rw [hp, settle_ok], ?_⟩
    rw [← groupVal, if_neg (by omega)]
    exact ⟨rfl, hvalue, hcount, getLsbD_acceptDigit group s⟩

/-- `FR.PUSH` completes while the frame has room, whatever the group (R204). -/
theorem frPush_completes (group : Group) (s : State) (hroom : s.digitCount.toNat < Config.N) :
    ∃ t, frPush group s = .ok t := by
  rcases frPush_cases group s with ⟨hfull, -⟩ | ⟨-, -, hp⟩ | ⟨-, -, hp⟩
  · omega
  · exact ⟨_, hp⟩
  · exact ⟨_, hp⟩

/-! ### A bit -/

/-- The command word of `FR.BIT` (R104, R105). -/
theorem toNat_encode_frBit (b : Bit) : (encode (.frBit b)).toNat = 0x5100000000 + b.toNat := by
  cases b <;> decide

/-- The fifth bit makes the group of the four before it and itself as the flag (R92, R101). -/
theorem takeBit_serInput_of_fifth (b : Bit) (s : State) (hpos : s.serInputPos.toNat = 4)
    (hin : s.serInput.toNat < 2 ^ s.serInputPos.toNat) :
    (takeBit b s).serInput = groupOf (s.serInput.setWidth 4) b := by
  have htake := (takeBit_input_lt b s (Nat.le_of_eq hpos) hin).1
  rw [hpos] at htake hin
  have hfour : (s.serInput.setWidth 4).toNat = s.serInput.toNat := by
    rw [BitVec.toNat_setWidth, Nat.mod_eq_of_lt hin]
  apply BitVec.eq_of_toNat_eq
  rw [htake, groupOf, toNat_append_nibble, hfour, BitVec.toNat_ofBool]
  omega

/-- Settles O33, by the position of the bit: the flush is a push of the group, and `FR.PUSH` does not look at the
accumulator that is cleared after it. -/
theorem frBitAccumulatesAndFlushesTheFifthBit : Obligations.FrBitAccumulatesAndFlushesTheFifthBit := by
  refine fun s bit => ⟨toNat_encode_frBit bit, fun hs hroom => ?_⟩
  rw [exec_frBit_eq_settle]
  rcases Nat.lt_or_eq_of_le hs.pos_le with hlt | hfifth
  · refine ⟨_, by rw [frBit_of_lt bit s hlt, settle_ok], ?_⟩
    rw [if_pos hlt]
    exact ⟨rfl, toNat_fit _ _ (by omega), (takeBit_input_lt bit s hs.pos_le hs.input_lt).1⟩
  · have hgroup := takeBit_serInput_of_fifth bit s hfifth hs.input_lt
    obtain ⟨u, hu⟩ := frPush_completes (groupOf (s.serInput.setWidth 4) bit) s (hroom hfifth)
    have hflush : frBit bit s = .ok (clearGroup u) := by
      rw [frBit_flush bit s hfifth, hgroup, ← frPush_clear, hu]
      rfl
    refine ⟨_, by rw [hflush, settle_ok], ?_⟩
    rw [if_neg (by omega)]
    exact ⟨_, by rw [exec_frPush_eq_settle, hu, settle_ok], rfl⟩

end Sys2Proof.Machine
end

section
/-! The input-mode iteration (44_serial_input_framer.md R207): its drain takes the unread bits as a script of `FR.BIT`
does, up to the one that fills the frame, and its bookkeeping takes a pending tick as `FR.TMO` does. -/

namespace Sys2Proof.Machine

/-! ### `FR.BIT` does not look at the queue -/

/-- The state with the queue read up to this index and this result recorded: how the drain loop, which reads the queue
and answers nothing, differs from a script of `FR.BIT`. -/
def readToReturning (r : Nibble) (x : Result) (s : State) : State := (readTo r s).returning x

theorem frPush_readToReturning (r : Nibble) (x : Result) (g : Group) (s : State) :
    frPush g (readToReturning r x s) = (frPush g s).map (readToReturning r x) := by
  rw [frPush, frPush, apply_ite (Except.map _), apply_ite (Except.map _)]
  rfl

theorem frBit_readToReturning (r : Nibble) (x : Result) (b : Bit) (s : State) :
    frBit b (readToReturning r x s) = (frBit b s).map (readToReturning r x) := by
  have hflush : (frPush (takeBit b s).serInput (readToReturning r x (takeBit b s))).map clearGroup =
      ((frPush (takeBit b s).serInput (takeBit b s)).map clearGroup).map (readToReturning r x) := by
    rw [frPush_readToReturning]
    cases frPush (takeBit b s).serInput (takeBit b s) <;> rfl
  rw [frBit_eq, frBit_eq, apply_ite (Except.map _), ← hflush]
  rfl

/-- An `FR.BIT` that completes is the first of a script that goes on from its next state. -/
theorem runScript_frBit_cons (b : Bit) (bits : List Bit) (s v : State) (h : frBit b s = .ok v) :
    runScript ((b :: bits).map .frBit) s = runScript (bits.map .frBit) (v.returning .nothing) :=
  runScript_cons_of_next _ _ _ _ (by rw [exec_frBit_eq_settle, h, settle_ok])

/-! ### The drain as a script of `FR.BIT` -/

/-- Of these bits, taken from state `s`, the `j`-th is the first that fills the frame, and it leaves state `u`. -/
structure FillsFrameAt (bits : List Bit) (s : State) (j : Nat) (u : State) : Prop where
  le : j ≤ bits.length
  run : runScript ((bits.take j).map .frBit) s = .next u
  full : u.digitCount.toNat = Config.N
  first : ∀ k v, k < j → runScript ((bits.take k).map .frBit) s = .next v → v.digitCount.toNat < Config.N

/-- The first bit fills the frame. -/
theorem FillsFrameAt.head {b : Bit} {s v : State} (bits : List Bit) (hbit : frBit b s = .ok v)
    (hroom : s.digitCount.toNat < Config.N) (hfull : v.digitCount.toNat = Config.N) :
    FillsFrameAt (b :: bits) s 1 (v.returning .nothing) where
  le := by simp
  run := runScript_frBit_cons b [] s v hbit
  full := hfull
  first k w hk hw := by
    obtain rfl : k = 0 := by omega
    cases hw
    exact hroom

/-- A bit before those that fill the frame. -/
theorem FillsFrameAt.cons {b : Bit} {bits : List Bit} {s v u : State} {j : Nat} (hbit : frBit b s = .ok v)
    (hroom : s.digitCount.toNat < Config.N) (h : FillsFrameAt bits (v.returning .nothing) j u) :
    FillsFrameAt (b :: bits) s (j + 1) u where
  le := Nat.succ_le_succ h.le
  run := by rw [List.take_succ_cons, runScript_frBit_cons b _ s v hbit, h.run]
  full := h.full
  first k w hk hw := by
    cases k with
    | zero =>
      cases hw
      exact hroom
    | succ k =>
      rw [List.take_succ_cons, runScript_frBit_cons b _ s v hbit] at hw
      exact h.first k w (by omega) hw

/-- The drain loop started in a frame with room, with enough turns for the unread bits: either one of them fills the
frame, and `FR.END` runs on the state it leaves, or none does, and all are taken and the queue is empty (R207). -/
theorem drain_eq_runScript_frBit (bits : List Bit) (k : Nat) (s : State) (r : Nibble) (x : Result)
    (hq : (readToReturning r x s).unread = bits) (hk : bits.length ≤ k) (hs : RangeInv s)
    (hroom : s.digitCount.toNat < Config.N) :
    (∃ j u, FillsFrameAt bits s j u ∧
      drain k (readToReturning r x s) = .ok (.completed, frEnd (u.returning x))) ∨
    (∃ u, runScript (bits.map .frBit) s = .next u ∧ u.digitCount.toNat < Config.N ∧
      drain k (readToReturning r x s) = .ok (.emptied, readToReturning u.writeIndex x u)) := by
  induction bits generalizing k s r with
  | nil =>
    have hread : s.writeIndex = r := by
      have hempty : (readToReturning r x s).queueEmpty = true := by
        rw [queueEmpty_iff, ← length_unread, hq, List.length_nil]
      exact beq_iff_eq.mp hempty
    exact .inr ⟨s, rfl, hroom, by rw [drain_nil _ _ hq, hread]⟩
  | cons b bits ih =>
    obtain ⟨k, rfl⟩ : ∃ k', k = k' + 1 := ⟨k - 1, by rw [List.length_cons] at hk; omega⟩
    obtain ⟨v, hbit⟩ := frBit_completes b s hs.pos_le hroom
    have hread : frBit b (readToReturning (r + 1) x s) = .ok (readToReturning (r + 1) x v) := by
      rw [frBit_readToReturning, hbit]
      rfl
    have hturn := drain_succ k b bits (readToReturning r x s) _ hq hread
    have hv := frBit_rangeInv b s v hs hbit
    by_cases hfull : v.digitCount.toNat = Config.N
    · exact .inl ⟨1, _, .head bits hbit hroom hfull, hturn.trans (if_pos hfull)⟩
    · rw [show drain (k + 1) (readToReturning r x s) = _ from hturn.trans (if_neg hfull)]
      have hq' : (readToReturning (r + 1) x v).unread = bits := by
        rw [← (drain_cons k _ b bits hq).1, frBit_frame b s v hbit]
        rfl
      have hroom' : v.digitCount.toNat < Config.N := Nat.lt_of_le_of_ne hv.digits_le hfull
      rcases ih k (v.returning .nothing) (r + 1) hq' (Nat.le_of_succ_le_succ hk) (returning_rangeInv _ v hv) hroom'
        with ⟨j, u, hfills, hdrain⟩ | ⟨u, hrun, hu, hdrain⟩
      · exact .inl ⟨j + 1, u, hfills.cons hbit hroom, hdrain⟩
      · exact .inr ⟨u, by rw [runScript_frBit_cons b bits s v hbit, hrun], hu, hdrain⟩

/-! ### The drain and the watchdog -/

/-- The two states agree on what the time-out bookkeeping reads and on the mode: the watchdog, the tick flag, the input
mode. -/
structure SameWatchdog (s t : State) : Prop where
  counter : t.timeoutCounter = s.timeoutCounter
  tick : t.refreshNeeded = s.refreshNeeded
  mode : t.inputMode = s.inputMode

/-- `FR.BIT` does not touch the watchdog (R203, R208). -/
theorem SameWatchdog.frBit {s t u : State} (h : SameWatchdog s t) (b : Bit) (hbit : frBit b t = .ok u) :
    SameWatchdog s u := by
  rw [frBit_frame b t u hbit]
  exact ⟨h.counter, h.tick, h.mode⟩

/-- A drain that empties the queue does not touch the watchdog; one that completes the frame ends with `FR.END`
(R207). -/
theorem drain_sameWatchdog (k : Nat) (s : State) (e : DrainEnd) (t : State) (h : drain k s = .ok (e, t)) :
    (e = .emptied ∧ SameWatchdog s t) ∨ (e = .completed ∧ ∃ u, t = frEnd u) := by
  rcases drain_induction (SameWatchdog s) (fun _ hu => { hu with }) (fun b _ _ hu hb => hu.frBit b hb) k s e t
      ⟨rfl, rfl, rfl⟩ h with hemptied | ⟨he, u, -, -, ht⟩
  · exact .inl hemptied
  · exact .inr ⟨he, u, ht⟩

/-- A drain that empties the queue leaves the watchdog, the tick flag and the mode. -/
theorem sameWatchdog_of_emptied {k : Nat} {s t : State} (h : drain k s = .ok (.emptied, t)) : SameWatchdog s t := by
  rcases drain_sameWatchdog k s .emptied t h with ⟨-, hsame⟩ | ⟨he, -⟩
  · exact hsame
  · cases he

/-! ### The iteration -/

/-- `FR.ITER` executes as its block operation, settled into an answer. -/
theorem exec_frIter_eq_settle (s : State) : exec .frIter s = settle (frIter s) := rfl

/-- In input mode an iteration of the main loop is `FR.ITER` (R233). -/
theorem exec_coreIter_of_input (s : State) (hm : s.inputMode = true) : exec .coreIter s = exec .frIter s := by
  rw [exec_coreIter_eq_settle, coreIter, if_pos hm, exec_frIter_eq_settle]

/-- The tick consumed (R207). -/
def clearTick (s : State) : State := { s with refreshNeeded := false }

/-- An iteration whose drain empties the queue takes a pending tick as `FR.TMO` does (R207). -/
theorem exec_frIter_of_emptied (s t : State) (hm : s.inputMode = true)
    (h : drain Config.qcap (if s.timeoutCounter = 0 then frBegin s else s) = .ok (.emptied, t)) :
    exec .frIter s =
      if t.refreshNeeded = true then exec .frTmo (clearTick t) else .next (t.returning .nothing) := by
  rw [exec_frIter_eq_settle, frIter, if_pos hm, h]
  exact apply_ite settle _ _ _

/-- `FR.TMO` does not look at the last result. -/
theorem exec_frTmo_returning (r : Result) (s : State) : exec .frTmo (s.returning r) = exec .frTmo s := by
  have htmo : frTmo (s.returning r) = (frTmo s).map (State.returning · r) := by
    rw [frTmo, frTmo, apply_ite (Except.map _), apply_ite (Except.map _)]
    rfl
  rw [exec_frTmo_eq_settle, exec_frTmo_eq_settle, htmo]
  cases frTmo s <;> rfl

/-- `FR.TMO` completes with the watchdog loaded (R206). -/
theorem exec_frTmo_completes (s : State) (h : s.timeoutCounter.toNat ≠ 0) : ∃ t, exec .frTmo s = .next t := by
  obtain ⟨t, ht, -⟩ := (frTmoCountsDownOrAbortsTheFrame.2 s).2 h
  exact ⟨t, ht⟩

/-- An input-mode iteration of state `s` drains from state `begun`: what `FR.BEGIN` leaves of an armed framer, and the
state itself of an accumulating one. The frame there has room and its watchdog is loaded (R202, R207). -/
structure DrainsFrom (s begun : State) : Prop where
  begins : if s.timeoutCounter.toNat = 0 then exec .frBegin s = .next begun else begun = s
  start : (if s.timeoutCounter = 0 then frBegin s else s) = readToReturning s.readIndex s.result begun
  range : RangeInv begun
  room : begun.digitCount.toNat < Config.N
  loaded : begun.timeoutCounter.toNat ≠ 0
  tick : begun.refreshNeeded = s.refreshNeeded

theorem exists_drainsFrom (s : State) (hs : RangeInv s)
    (hroom : s.timeoutCounter.toNat ≠ 0 → s.digitCount.toNat < Config.N) : ∃ begun, DrainsFrom s begun := by
  by_cases hzero : s.timeoutCounter.toNat = 0
  · have harmed : s.timeoutCounter = 0 := BitVec.eq_of_toNat_eq hzero
    exact ⟨(frBegin s).returning .nothing,
      { begins := by rw [if_pos hzero]; rfl
        start := by rw [if_pos harmed]; rfl
        range := returning_rangeInv _ _ (frBegin_rangeInv s hs)
        room := (by decide : 0 < Config.N)
        loaded := (by decide : 3 ≠ 0)
        tick := rfl }⟩
  · have hloaded : s.timeoutCounter ≠ 0 := fun h => hzero (congrArg BitVec.toNat h)
    exact ⟨s,
      { begins := by rw [if_neg hzero]
        start := by rw [if_neg hloaded]; rfl
        range := hs
        room := hroom hzero
        loaded := hzero
        tick := rfl }⟩

/-- Beginning a frame does not touch the queue. -/
theorem DrainsFrom.unread {s begun : State} (h : DrainsFrom s begun) :
    (readToReturning s.readIndex s.result begun).unread = s.unread := by
  rw [← h.start]
  split <;> rfl

/-- Settles O37, by how the drain ends. The frame drained has its watchdog loaded, and the drain does not touch it, so
the `FR.TMO` of a pending tick completes. -/
theorem frIterDrainsTheUnreadBitsThenCountsATick : Obligations.FrIterDrainsTheUnreadBitsThenCountsATick := by
  refine ⟨by decide, fun s => ⟨fun hm => ?_, fun hs hm hroom => ?_⟩⟩
  · rw [exec_frIter_eq_settle, frIter, if_neg (by rw [hm]; decide), settle_error]
  obtain ⟨begun, hbegun⟩ := exists_drainsFrom s hs hroom
  have hlength : s.unread.length ≤ Config.qcap := (length_unread s).trans_le (occupancy_lt s).le
  rcases drain_eq_runScript_frBit s.unread Config.qcap begun s.readIndex s.result hbegun.unread hlength hbegun.range
    hbegun.room with ⟨j, u, hfills, hdrain⟩ | ⟨u, hrun, hu, hdrain⟩
  · rw [← hbegun.start] at hdrain
    have hiter := (exec_coreIter_of_input s hm).symm.trans (exec_coreIter_of_completed s _ hm hdrain)
    exact ⟨begun, _, hiter, hbegun.begins, .inl ⟨j, u, hfills.le, hfills.run, hfills.full, hfills.first, rfl⟩⟩
  · have hsame := sameWatchdog_of_emptied hdrain
    have htick : u.refreshNeeded = s.refreshNeeded := hsame.tick.trans hbegun.tick
    have hloaded : (clearTick (readTo u.writeIndex u)).timeoutCounter.toNat ≠ 0 := by
      rw [show (clearTick (readTo u.writeIndex u)).timeoutCounter = begun.timeoutCounter from hsame.counter]
      exact hbegun.loaded
    rw [← hbegun.start] at hdrain
    have hiter := exec_frIter_of_emptied s _ hm hdrain
    rw [show (readToReturning u.writeIndex s.result u).refreshNeeded = s.refreshNeeded from htick] at hiter
    by_cases hpending : s.refreshNeeded = true
    · obtain ⟨t, htmo⟩ := exec_frTmo_completes _ hloaded
      rw [if_pos hpending] at hiter
      have hresult := exec_frTmo_returning s.result (clearTick (readTo u.writeIndex u))
      refine ⟨begun, t, hiter.trans (hresult.trans htmo), hbegun.begins, .inr ⟨u, hrun, hu, ?_⟩⟩
      rw [if_pos hpending]
      exact htmo
    · rw [if_neg hpending] at hiter
      refine ⟨begun, _, hiter, hbegun.begins, .inr ⟨u, hrun, hu, ?_⟩⟩
      rw [if_neg hpending]
      rfl

end Sys2Proof.Machine
end

section
/-! The watchdog in a frame (44_serial_input_framer.md R205, R208, R212): what an agent's step can do to it, and the
first iteration of a frame. -/

namespace Sys2Proof.Machine

/-! ### No reload -/

/-- What the step of an agent from `s` to `t` can do to the watchdog of a frame in progress: leave it, end input mode
with it, or count one tick, which an iteration consumes (R205, R206, R208). -/
inductive WatchdogStep (e : Event) (s t : State) : Prop where
  | kept (same : t.timeoutCounter = s.timeoutCounter) (mode : t.inputMode = true)
  | ended (zero : t.timeoutCounter = 0) (mode : t.inputMode = false)
  | counted (iter : e = .iteration) (pending : s.refreshNeeded = true) (consumed : t.refreshNeeded = false)
      (count : t.timeoutCounter.toNat + 1 = s.timeoutCounter.toNat) (mode : t.inputMode = true)

/-- Recording a result does nothing to the watchdog. -/
theorem WatchdogStep.returning {e : Event} {s t : State} (h : WatchdogStep e s t) (r : Result) :
    WatchdogStep e s (t.returning r) := by
  cases h with
  | kept same mode => exact .kept same mode
  | ended zero mode => exact .ended zero mode
  | counted iter pending consumed count mode => exact .counted iter pending consumed count mode

/-- An edge of a frame is a data edge (R231). -/
theorem irqEdge_watchdogStep (level : Bit) (s : State) (hm : s.inputMode = true) :
    WatchdogStep (.edge level) s (irqEdge level s) := by
  rcases irqEdge_cases level s with ⟨-, he⟩ | ⟨hdisplay, -⟩
  · rw [he, bqWrite_eq]
    exact .kept rfl hm
  · cases hm.symm.trans hdisplay

/-- The watchdog tick at the end of a drain that started in state `s` (R206, R207). -/
theorem frTmo_watchdogStep (s u t : State) (hm : s.inputMode = true) (hsame : SameWatchdog s u)
    (hpending : u.refreshNeeded = true) (h : frTmo { u with refreshNeeded := false } = .ok t) :
    WatchdogStep .iteration s t := by
  rcases frTmo_cases { u with refreshNeeded := false } with ⟨-, ht⟩ | ⟨-, ht⟩ | ⟨htwo, ht⟩ <;> rw [ht] at h <;> cases h
  · exact .ended rfl rfl
  · refine .counted rfl (hsame.tick.symm.trans hpending) rfl ?_ (hsame.mode.trans hm)
    have hcount : (u.timeoutCounter - 1).toNat + 1 = u.timeoutCounter.toNat := by
      have htwo' : 2 ≤ u.timeoutCounter.toNat := htwo
      bv_omega
    rwa [← hsame.counter]

/-- An input-mode iteration inside a frame does not begin another: its drain leaves the watchdog or ends input mode
(R207). -/
theorem frIter_watchdogStep (s t : State) (hloaded : s.timeoutCounter ≠ 0) (h : frIter s = .ok t) :
    WatchdogStep .iteration s t := by
  obtain ⟨hm, hend⟩ := frIter_cases s t h
  rw [if_neg hloaded] at hend
  rcases hend with hcompleted | ⟨u, hemptied, hbook⟩
  · rcases drain_sameWatchdog _ s _ t hcompleted with ⟨he, -⟩ | ⟨-, u, rfl⟩
    · cases he
    · exact .ended rfl rfl
  · have hsame := sameWatchdog_of_emptied hemptied
    rcases hbook with ⟨-, rfl⟩ | ⟨hpending, htmo⟩
    · exact .kept hsame.counter (hsame.mode.trans hm)
    · exact frTmo_watchdogStep s u t hm hsame hpending htmo

/-- The step of any agent inside a frame. -/
theorem exec_watchdogStep (s t : State) (e : Event) (hframe : s.framerState = .accumulating)
    (h : exec (handlerOf e) s = .next t) : WatchdogStep e s t := by
  obtain ⟨hm, hloaded⟩ := (framerState_eq_accumulating s).mp hframe
  cases e with
  | edge level =>
    cases h
    exact (irqEdge_watchdogStep level s hm).returning _
  | tick =>
    cases h
    exact .kept rfl hm
  | iteration =>
    obtain ⟨u, hu, rfl⟩ := settle_eq_next _ t h
    rcases coreIter_cases s u hu with ⟨-, hiter⟩ | ⟨hdisplay, -⟩
    · exact (frIter_watchdogStep s u hloaded hiter).returning _
    · cases hm.symm.trans hdisplay
  | reset =>
    cases h
    exact .ended rfl rfl

/-- Settles O54, by what a step can do to the watchdog. -/
theorem watchdogIsNotReloadedInAFrame : Obligations.WatchdogIsNotReloadedInAFrame := by
  intro s t e hframe h
  cases exec_watchdogStep s t e hframe h with
  | kept same mode =>
    refine ⟨(congrArg BitVec.toNat same).le, fun hchanged => absurd same hchanged, fun hdisplay => ?_⟩
    cases mode.symm.trans hdisplay
  | ended zero mode =>
    have hzero : t.timeoutCounter.toNat = 0 := congrArg BitVec.toNat zero
    refine ⟨by omega, fun _ hinput => ?_, fun _ => hzero⟩
    cases mode.symm.trans hinput
  | counted iter pending consumed count mode =>
    refine ⟨by omega, fun _ _ => ⟨iter, pending, consumed, count⟩, fun hdisplay => ?_⟩
    cases mode.symm.trans hdisplay

/-! ### The first iteration of a frame -/

/-- The bits of the digits accepted and of the group in progress. -/
def bitsHeld (s : State) : Nat := 5 * s.digitCount.toNat + s.serInputPos.toNat

/-- A push adds at most the five bits of its group to those held (R204). -/
theorem frPush_bitsHeld_le (g : Group) (s t : State) (hs : RangeInv s) (h : frPush g s = .ok t) :
    bitsHeld t ≤ bitsHeld s + 5 := by
  rcases frPush_cases g s with ⟨-, hp⟩ | ⟨-, -, hp⟩ | ⟨hroom, hdigit, hp⟩ <;> rw [hp] at h <;> cases h
  · exact Nat.le_add_right (bitsHeld s) 5
  · obtain ⟨-, -, hcount⟩ := acceptDigit_numbers g s hroom hs.value_lt hdigit
    rw [bitsHeld, bitsHeld, hcount, acceptDigit_serInputPos]
    omega

/-- Clearing the group of four bits drops them (R203). -/
theorem bitsHeld_clearGroup (s : State) (hfifth : s.serInputPos.toNat = 4) :
    bitsHeld (clearGroup s) + 4 = bitsHeld s := by
  rw [bitsHeld, bitsHeld, clearGroup_digitCount, hfifth]
  rfl

/-- `FR.BIT` adds at most its one bit to those held (R203, R204). -/
theorem frBit_bitsHeld_le (b : Bit) (s t : State) (hs : RangeInv s) (h : frBit b s = .ok t) :
    bitsHeld t ≤ bitsHeld s + 1 := by
  rcases Nat.lt_or_eq_of_le hs.pos_le with hlt | hfifth
  · have hpos : (takeBit b s).serInputPos.toNat = s.serInputPos.toNat + 1 := toNat_fit _ _ (by omega)
    rw [frBit_of_lt b s hlt] at h
    cases h
    rw [bitsHeld, bitsHeld, takeBit_digitCount, hpos]
    omega
  · rw [frBit_flush b s hfifth] at h
    have hpush := frPush_bitsHeld_le _ _ t (clearGroup_rangeInv s hs) h
    have hclear := bitsHeld_clearGroup s hfifth
    omega

/-- A script of `FR.BIT` adds at most its bits to those held. -/
theorem runScript_frBit_bitsHeld_le (bits : List Bit) (s t : State) (hs : RangeInv s)
    (h : runScript (bits.map .frBit) s = .next t) : bitsHeld t ≤ bitsHeld s + bits.length := by
  induction bits generalizing s with
  | nil =>
    cases h
    exact le_rfl
  | cons b bits ih =>
    cases hbit : frBit b s with
    | error r =>
      rw [List.map_cons, runScript, exec_frBit_eq_settle, hbit] at h
      cases h
    | ok v =>
      rw [runScript_frBit_cons b bits s v hbit] at h
      have hrest := ih (v.returning .nothing) (returning_rangeInv _ v (frBit_rangeInv b s v hs hbit)) h
      have hfirst := frBit_bitsHeld_le b s v hs hbit
      rw [show bitsHeld (v.returning .nothing) = bitsHeld v from rfl] at hrest
      rw [List.length_cons]
      omega

/-- The queue holds too few bits to fill a fresh frame, so the drain of the first iteration empties it and the frame
goes on (R207, R212). -/
theorem drain_frBegin (s : State) (hs : RangeInv s) :
    ∃ u, drain Config.qcap (frBegin s) = .ok (.emptied, u) ∧ u.queueEmpty = true ∧ SameWatchdog (frBegin s) u := by
  have hlength : s.unread.length ≤ 15 := Nat.le_of_lt_succ ((length_unread s).trans_lt (occupancy_lt s))
  have hfresh := frBegin_rangeInv s hs
  rcases drain_eq_runScript_frBit s.unread Config.qcap (frBegin s) s.readIndex s.result rfl (hlength.trans (by decide))
    hfresh (by decide : 0 < Config.N) with ⟨j, u, hfills, -⟩ | ⟨u, -, -, hdrain⟩
  · have htaken := runScript_frBit_bitsHeld_le _ _ _ hfresh hfills.run
    have hnone : bitsHeld (frBegin s) = 0 := rfl
    have hall : 5 * Config.N ≤ bitsHeld u := by rw [bitsHeld, hfills.full]; omega
    have hmany : 5 * Config.N = 20 := rfl
    rw [List.length_take] at htaken
    omega
  · exact ⟨_, hdrain, beq_self_eq_true _, sameWatchdog_of_emptied hdrain⟩

/-- A tick that is not the watchdog's last is only counted (R206). -/
theorem exec_frTmo_of_two_le (s : State) (n : Byte) (hn : s.timeoutCounter = n) (h : 2 ≤ n.toNat) :
    exec .frTmo s = .next { s with timeoutCounter := n - 1, result := .nothing } := by
  subst hn
  rw [exec_frTmo_eq_settle]
  rcases frTmo_cases s with ⟨hzero, -⟩ | ⟨hone, -⟩ | ⟨-, ht⟩
  · omega
  · omega
  · rw [ht]
    rfl

/-- Settles O55: the drain leaves the watchdog as `FR.BEGIN` loaded it, and then a pending tick is counted. -/
theorem tickPendingAtEntryCounts : Obligations.TickPendingAtEntryCounts := by
  intro s hs harmed
  obtain ⟨hm, hzero⟩ := (framerState_eq_armed s).mp harmed
  obtain ⟨u, hdrain, hempty, hcounter, htick, hmode⟩ := drain_frBegin s hs.toRangeInv
  have hthree : u.timeoutCounter = 3 := hcounter
  have hinput : u.inputMode = true := hmode.trans hm
  have hiter := exec_frIter_of_emptied s u hm (by rw [if_pos hzero, hdrain])
  rw [← exec_coreIter_of_input s hm, show u.refreshNeeded = s.refreshNeeded from htick] at hiter
  by_cases hpending : s.refreshNeeded = true
  · have htmo := exec_frTmo_of_two_le (clearTick u) 3 hthree (by decide)
    have hloaded : (3 - 1 : Byte) ≠ 0 := by decide
    rw [if_pos hpending] at hiter ⊢
    exact ⟨_, hiter.trans htmo, (framerState_eq_accumulating _).mpr ⟨hinput, hloaded⟩, rfl, hempty, rfl⟩
  · rw [if_neg hpending] at hiter ⊢
    have hloaded : u.timeoutCounter ≠ 0 := by rw [hthree]; decide
    exact ⟨_, hiter, (framerState_eq_accumulating _).mpr ⟨hinput, hloaded⟩,
      htick.trans (Bool.eq_false_iff.mpr hpending), hempty, congrArg BitVec.toNat hthree⟩

end Sys2Proof.Machine
end

section
/-! A frame that stalls (44_serial_input_framer.md R206, 60_exceptions.md R252): with no bit queued, each tick and the
iteration after it take one from the watchdog, and the third aborts the frame. -/

namespace Sys2Proof.Machine

/-! ### The ticks of a stalled frame -/

/-- A tick, and the iteration that consumes it. -/
def tickScript : List Instr := [.irqTick, .coreIter]

/-- The watchdog's last tick aborts the frame (R206). -/
theorem exec_frTmo_of_one (s : State) (h : s.timeoutCounter = 1) :
    exec .frTmo s = .next ((abortFrame { s with timeoutCounter := 0 }).returning .nothing) := by
  have hone : s.timeoutCounter.toNat = 1 := congrArg BitVec.toNat h
  rw [exec_frTmo_eq_settle]
  rcases frTmo_cases s with ⟨hzero, -⟩ | ⟨-, ht⟩ | ⟨htwo, -⟩
  · omega
  · rw [ht, settle_ok]
  · omega

/-- Inside a frame with no bit queued, the iteration that finds a tick pending is one `FR.TMO` (R207). -/
theorem exec_coreIter_of_stalled (s : State) (hm : s.inputMode = true) (hq : s.unread = [])
    (hloaded : s.timeoutCounter ≠ 0) (hpending : s.refreshNeeded = true) :
    exec .coreIter s = exec .frTmo (clearTick s) := by
  have hiter := exec_frIter_of_emptied s s hm (by rw [if_neg hloaded]; exact drain_nil _ s hq)
  rwa [if_pos hpending, ← exec_coreIter_of_input s hm] at hiter

/-- Inside a frame with no bit queued, a tick and the iteration after it are one `FR.TMO` (R207, R232). -/
theorem runScript_tickScript (rest : List Instr) (s t : State) (hm : s.inputMode = true) (hq : s.unread = [])
    (hloaded : s.timeoutCounter ≠ 0) (htmo : exec .frTmo (clearTick s) = .next t) :
    runScript (tickScript ++ rest) s = runScript rest t := by
  have htick : exec .irqTick s = .next ((irqTick s).returning .nothing) := rfl
  have hiter := (exec_coreIter_of_stalled ((irqTick s).returning .nothing) hm hq hloaded rfl).trans
    ((exec_frTmo_returning .nothing (clearTick s)).trans htmo)
  exact (runScript_cons_of_next _ _ _ _ htick).trans (runScript_cons_of_next _ _ _ _ hiter)

/-- The state with the tick consumed and this many ticks left. -/
def ticksLeft (n : Byte) (s : State) : State :=
  { s with refreshNeeded := false, timeoutCounter := n, result := .nothing }

/-- A tick that is not the last of a stalled frame leaves it with one tick less (R206). -/
theorem runScript_tickScript_of_two_le (rest : List Instr) (s : State) (n : Byte) (hm : s.inputMode = true)
    (hq : s.unread = []) (hn : s.timeoutCounter = n) (h : 2 ≤ n.toNat) :
    runScript (tickScript ++ rest) s = runScript rest (ticksLeft (n - 1) s) := by
  have hloaded : s.timeoutCounter ≠ 0 := by
    rw [hn]
    bv_omega
  exact runScript_tickScript rest s _ hm hq hloaded (exec_frTmo_of_two_le (clearTick s) n hn h)

/-- The last tick of a stalled frame aborts it (R206). -/
theorem runScript_tickScript_of_one (s : State) (hm : s.inputMode = true) (hq : s.unread = [])
    (hn : s.timeoutCounter = 1) : runScript tickScript s = .next (abortFrame (ticksLeft 0 s)) := by
  have hloaded : s.timeoutCounter ≠ 0 := by
    rw [hn]
    decide
  exact runScript_tickScript [] s _ hm hq hloaded (exec_frTmo_of_one (clearTick s) hn)

/-- Three ticks abort a stalled frame whose watchdog is full (R206, R252). -/
theorem runScript_three_ticks (s : State) (hm : s.inputMode = true) (hq : s.unread = [])
    (hfull : s.timeoutCounter = 3) :
    runScript [.irqTick, .coreIter, .irqTick, .coreIter, .irqTick, .coreIter] s =
      .next (abortFrame (ticksLeft 0 s)) :=
  calc runScript (tickScript ++ (tickScript ++ tickScript)) s
      = runScript (tickScript ++ tickScript) (ticksLeft (3 - 1) s) :=
        runScript_tickScript_of_two_le _ s 3 hm hq hfull (by decide)
    _ = runScript tickScript (ticksLeft (2 - 1) s) :=
        runScript_tickScript_of_two_le _ (ticksLeft 2 s) 2 hm hq rfl (by decide)
    _ = .next (abortFrame (ticksLeft 0 s)) := runScript_tickScript_of_one (ticksLeft 1 s) hm hq rfl

/-! ### A frame that stalls after its announce edge -/

/-- An iteration of an armed framer is one of the fresh frame (R202, R207). -/
theorem exec_coreIter_of_armed (s : State) (hm : s.inputMode = true) (h : s.timeoutCounter = 0) :
    exec .coreIter s = exec .coreIter (frBegin s) := by
  have hloaded : (frBegin s).timeoutCounter ≠ 0 := (by decide : (3 : Byte) ≠ 0)
  have hiter : frIter s = frIter (frBegin s) := by
    rw [frIter, frIter, if_pos h, if_neg hloaded, frBegin_inputMode]
  rw [exec_coreIter_of_input s hm, exec_coreIter_of_input (frBegin s) hm, exec_frIter_eq_settle,
    exec_frIter_eq_settle, hiter]

/-- A tick and an iteration of an armed framer are those of the fresh frame: a tick pending at entry counts (R212). -/
theorem runScript_tickScript_of_armed (rest : List Instr) (s : State) (hm : s.inputMode = true)
    (h : s.timeoutCounter = 0) :
    runScript (tickScript ++ rest) s = runScript (tickScript ++ rest) (frBegin s) := by
  have htick : ∀ u, runScript (tickScript ++ rest) u = runScript (.coreIter :: rest) ((irqTick u).returning .nothing) :=
    fun u => runScript_cons_of_next _ _ _ _ rfl
  have hiter : exec .coreIter ((irqTick s).returning .nothing) =
      exec .coreIter ((irqTick (frBegin s)).returning .nothing) :=
    exec_coreIter_of_armed ((irqTick s).returning .nothing) hm h
  rw [htick, htick, runScript, runScript, hiter]

/-- The state after an announce edge. -/
def announced (s : State) : State := { s with inputMode := true, result := .nothing }

/-- In display mode an edge announces a frame and does nothing else (R231). -/
theorem runScript_announceScript (rest : List Instr) (s : State) (hm : s.inputMode = false) :
    runScript (announceScript ++ rest) s = runScript rest (announced s) := by
  have hedge : irqEdge false s = { s with inputMode := true } := if_neg (by rw [hm]; decide)
  exact runScript_cons_of_next _ _ _ _ (by rw [exec, execIrqEdge, hedge, done_eq]; rfl)

/-- Settles O56: the announce edge arms the framer, and the three ticks are those of the fresh frame. -/
theorem stalledFrameTimesOut : Obligations.StalledFrameTimesOut := by
  intro s hs hm
  obtain ⟨hzero, hempty⟩ := hs.idle ((framerState_eq_idle s).mpr hm)
  have harmed : s.timeoutCounter = 0 := BitVec.eq_of_toNat_eq hzero
  have hqueue : (frBegin (announced s)).unread = [] := unread_of_queueEmpty _ hempty
  have hticks := (runScript_tickScript_of_armed (tickScript ++ tickScript) (announced s) rfl harmed).trans
    (runScript_three_ticks _ rfl hqueue rfl)
  have hdots : setMaskBit 0 0 = 1 := by decide
  refine ⟨_, (runScript_announceScript _ s hm).trans hticks, ?_⟩
  rw [← hdots]
  rfl

/-! ### A frame that stalls in a group -/

/-- The drain of a part of a group into a frame with room takes it and empties the queue (R203, R207). -/
theorem drain_part_emptied (part : List Bit) (s : State) (hq : s.unread = part) (hlen : part.length < 5)
    (hroom : s.digitCount.toNat < Config.N) (hclear : clearGroup s = s) :
    ∃ r, (partGroup part (readTo r s)).unread = [] ∧
      drain Config.qcap s = .ok (.emptied, partGroup part (readTo r s)) := by
  have hstart : partGroup [] s = s := hclear
  obtain ⟨r, hrest, hpart⟩ := drain_part (Config.qcap - part.length) part [] [] s (by rw [hq, List.append_nil])
    (by rw [List.length_nil]; omega) hroom
  have hturns : part.length + (Config.qcap - part.length) = Config.qcap :=
    Nat.add_sub_cancel' (Nat.le_of_lt (hlen.trans (by decide)))
  rw [hstart, hturns, List.nil_append] at hpart
  exact ⟨r, hrest, hpart.trans (drain_nil _ _ hrest)⟩

/-- The edges of a part of a group in a frame in progress, and the iteration after them: the part is taken, and the
digits are still held (R203, R207). -/
theorem runScript_part_of_inFrame (s t : State) (digits : List (Nibble × Bit)) (part : List Bit)
    (h : InFrame s digits t) (htick : s.refreshNeeded = false) (hroom : digits.length < Config.N)
    (hlen : part.length < 5) :
    ∃ u, InFrame s digits u ∧ (partGroup part u).unread = [] ∧
      runScript (part.map .irqEdge ++ [.coreIter]) t = .next (partGroup part u) := by
  obtain ⟨hholds, hdrained, hrest⟩ := h
  have hmode : t.inputMode = true := by rw [hrest]
  obtain ⟨v, hedges, hqueue, hv⟩ := runScript_irqEdge part t hmode (by rw [hdrained, List.length_nil]; omega)
  rw [hdrained, List.nil_append] at hqueue
  have hvholds : HoldsDigits v digits := by rw [hv]; exact { hholds with }
  rw [hrest] at hv
  obtain ⟨r, hempty, hdrain⟩ := drain_part_emptied part v hqueue hlen (hvholds.count.trans_lt hroom) (by rw [hv]; rfl)
  have hstart : (if v.timeoutCounter = 0 then frBegin v else v) = v :=
    if_neg (by rw [hv]; exact (by decide : (3 : Byte) ≠ 0))
  have hiter := exec_coreIter_of_emptied v (partGroup part (readTo r v)) (by rw [hv]) (by rw [hstart, hdrain])
    (show v.refreshNeeded = false by rw [hv]; exact htick)
  refine ⟨(readTo r v).returning .nothing, ⟨{ hvholds with }, hempty, by rw [hv]; rfl⟩, hempty, ?_⟩
  exact (runScript_append_of_next _ _ _ _ hedges).trans (runScript_cons_of_next _ [] _ _ hiter)

/-- The abort of a frame in progress with a part of a group taken (R206, R252): back in display mode with the queue
reset, the digits and the part kept and the dot of position 0 lit. -/
theorem InFrame.abortFrame_eq {s u : State} {digits : List (Nibble × Bit)} (h : InFrame s digits u) (part : List Bit)
    (hm : s.inputMode = false) (htick : s.refreshNeeded = false) :
    abortFrame (ticksLeft 0 (partGroup part u)) = { s with
      q := u.q, writeIndex := 0, readIndex := 0, displayValue := u.displayValue,
      displayDotmask := setMaskBit u.displayDotmask 0, serInput := BitVec.ofNat 5 (bitsValue part),
      serInputPos := BitVec.ofNat 3 part.length, digitCount := u.digitCount, timeoutCounter := 0,
      errorLog := s.errorLog ++ [.framingTimeout], result := .nothing } :=
  calc abortFrame (ticksLeft 0 (partGroup part u)) = _ :=
        congrArg (abortFrame <| ticksLeft 0 <| partGroup part ·) h.rest
    _ = _ := by
      simp only [abortFrame, frEnd, bqReset, State.signal, ticksLeft, partGroup, hm, htick]

/-- Settles O58: the digits and the part of a group stand in the framer when the frame stalls, and its abort keeps
them. -/
theorem frameStalledAfterSomeBitsKeepsThem : Obligations.FrameStalledAfterSomeBitsKeepsThem := by
  intro s digits part hs hm htick hroom hdigits hlen
  obtain ⟨t, ht, hframe⟩ := runScript_frameScript s hs hm htick digits hroom hdigits
  obtain ⟨u, hu, hempty, hpart⟩ := runScript_part_of_inFrame s t digits part hframe htick hroom hlen
  have hmode : u.inputMode = true := by rw [hu.rest]
  have hfull : u.timeoutCounter = 3 := by rw [hu.rest]
  have hticks := runScript_three_ticks (partGroup part u) hmode hempty hfull
  have hvalue := bitsValue_lt part
  have hpow : 2 ^ part.length ≤ 2 ^ 4 := Nat.pow_le_pow_right (by omega) (by omega)
  have hinput : (abortFrame (ticksLeft 0 (partGroup part u))).serInput.toNat = bitsValue part :=
    Nat.mod_eq_of_lt (by omega)
  refine ⟨_, ?_, hu.abortFrame_eq part hm htick, hu.holds.value, ?_, hu.holds.count, ?_, ?_, fun p b hp => ?_⟩
  · rw [List.append_assoc, runScript_append_of_next _ _ _ _ ht, List.append_cons,
      runScript_append_of_next _ _ _ _ hpart, hticks]
  · rw [← hu.holds.dots]
    exact BitVec.toNat_or _ _
  · exact Nat.mod_eq_of_lt (by omega)
  · exact hinput.trans_lt hvalue
  · rw [← BitVec.testBit_toNat, hinput]
    exact testBit_bitsValue part p b hp

end Sys2Proof.Machine
end

section
/-! The handlers and the main loop (45_handlers_and_main_loop.md R231 to R237): each operation as its rule says, the
changes of mode, and what input mode keeps. -/

namespace Sys2Proof.Machine

/-! ### The handlers -/

/-- The command word of `IRQ.EDGE` (R104, R105). -/
theorem toNat_encode_irqEdge (level : Bit) : (encode (.irqEdge level)).toNat = 0x6000000000 + level.toNat := by
  cases level <;> decide

/-- Settles O40, by the mode in which the edge comes. -/
theorem irqEdgeAnnouncesOrQueuesTheLevel : Obligations.IrqEdgeAnnouncesOrQueuesTheLevel := by
  refine fun s level => ⟨toNat_encode_irqEdge level, (irqEdge level s).returning .nothing, rfl, ?_⟩
  rcases irqEdge_cases level s with ⟨hm, hdata⟩ | ⟨hm, hannounce⟩
  · rw [if_pos hm, hdata]
    rfl
  · rw [if_neg (by rw [hm]; decide), hannounce]
    rfl

/-- Settles O41: the tick handler assigns a constant, so by definition a second tick finds what it would leave. -/
theorem irqTickSetsTheFlagAndTicksMerge : Obligations.IrqTickSetsTheFlagAndTicksMerge :=
  ⟨by decide, fun _ => ⟨rfl, rfl⟩⟩

/-! ### The main loop -/

/-- Settles O43, by the mode. -/
theorem coreIterRunsTheOperationOfItsMode : Obligations.CoreIterRunsTheOperationOfItsMode := by
  refine ⟨by decide, fun s => ?_⟩
  split
  next hinput => exact exec_coreIter_of_input s hinput
  next hdisplay => exact exec_coreIter_of_display s (Bool.eq_false_iff.mpr hdisplay)

/-- An iteration that completes has written what the main loop may write (R45). -/
theorem exec_coreIter_mainLoopFrame (s t : State) (h : exec .coreIter s = .next t) : MainLoopFrame s t := by
  obtain ⟨u, hu, rfl⟩ := settle_eq_next _ t h
  exact returning_mainLoopFrame .nothing s u (coreIter_mainLoopFrame s u hu)

/-- Settles O44: an iteration is the step of an agent, the main loop, and runs the operation of its mode. -/
theorem coreIterCompletesInEveryExecutionState : Obligations.CoreIterCompletesInEveryExecutionState := by
  intro s hs
  obtain ⟨t, hiter, ht⟩ := agentStepsCompleteAndKeepTheInvariant s .iteration hs
  have hframe := exec_coreIter_mainLoopFrame s t hiter
  have hoperation := (coreIterRunsTheOperationOfItsMode.2 s).symm.trans hiter
  refine ⟨t, hiter, ht, hframe.cells, hframe.mode, hframe.refresh, fun hm => ?_, fun hm => ?_⟩
  · rwa [if_neg (by rw [hm]; decide)] at hoperation
  · rwa [if_pos hm] at hoperation

/-! ### The changes of mode -/

/-- After an edge event the machine is in input mode: the edge announces a frame, or is a data edge of one (R231). -/
theorem irqEdge_inputMode (level : Bit) (s : State) : (irqEdge level s).inputMode = true := by
  rw [irqEdge_frame]

/-- Settles O51: an edge leaves input mode on, a tick leaves the mode as it was, an iteration never enters input mode, and
reset leaves display mode. -/
theorem modeChangesOnlyByEdgeAndIteration : Obligations.ModeChangesOnlyByEdgeAndIteration := by
  intro s t e h
  cases e with
  | edge level =>
    cases h
    exact ⟨fun _ _ => ⟨level, rfl⟩, fun _ hleft => by simp [irqEdge_inputMode] at hleft⟩
  | tick =>
    cases h
    exact ⟨fun hm hentered => absurd (hm.symm.trans hentered) (by decide),
      fun hm hleft => absurd (hm.symm.trans hleft) (by decide)⟩
  | iteration =>
    exact ⟨fun hm hentered => absurd (hm.symm.trans ((exec_coreIter_mainLoopFrame s t h).mode hentered)) (by decide),
      fun _ _ => .inl rfl⟩
  | reset =>
    cases h
    exact ⟨fun _ hentered => (by cases hentered), fun _ _ => .inr rfl⟩

/-! ### What input mode keeps -/

/-- What a watchdog tick can change (R206). -/
theorem frTmo_frame (s t : State) (h : frTmo s = .ok t) :
    t = { s with
      writeIndex := t.writeIndex, readIndex := t.readIndex, displayDotmask := t.displayDotmask,
      timeoutCounter := t.timeoutCounter, inputMode := t.inputMode, errorLog := t.errorLog } := by
  rcases frTmo_cases s with ⟨-, ht⟩ | ⟨-, ht⟩ | ⟨-, ht⟩ <;> rw [ht] at h <;> cases h <;> rfl

/-- What an input-mode iteration can change: the queue indices, the framer's registers, the number, the two flags and the
ghost log (R207). -/
theorem frIter_frame (s t : State) (h : frIter s = .ok t) :
    t = { s with
      writeIndex := t.writeIndex, readIndex := t.readIndex, displayValue := t.displayValue,
      displayDotmask := t.displayDotmask, serInput := t.serInput, serInputPos := t.serInputPos,
      digitCount := t.digitCount, timeoutCounter := t.timeoutCounter, inputMode := t.inputMode,
      refreshNeeded := t.refreshNeeded, errorLog := t.errorLog } := by
  have hstart : OnlyFramerChanged s (if s.timeoutCounter = 0 then frBegin s else s) := by
    split
    · exact frBegin_onlyFramerChanged s
    · exact .refl s
  obtain ⟨-, hdrain | ⟨u, hdrain, hbook⟩⟩ := frIter_cases s t h
  · obtain ⟨he, -⟩ | ⟨-, u, hu, rfl⟩ := drain_onlyFramerChanged _ _ _ t hdrain
    · cases he
    · rw [hstart.trans hu]
      rfl
  · obtain ⟨-, hu⟩ | ⟨he, -⟩ := drain_onlyFramerChanged _ _ _ u hdrain
    · have hframer := hstart.trans hu
      rcases hbook with ⟨-, rfl⟩ | ⟨-, htmo⟩
      · rw [hframer]
      · rw [frTmo_frame _ t htmo, hframer]
    · cases he

/-- Settles O52: an edge event writes the queue, a tick its flag, and an iteration is `FR.ITER`, which writes neither pins
nor sender nor glyph cursor. -/
theorem inputModeFreezesTheOutputs : Obligations.InputModeFreezesTheOutputs := by
  intro s t e hm hne h
  cases e with
  | edge level =>
    cases h
    rw [irqEdge_frame]
    exact ⟨rfl, rfl, rfl, rfl, rfl, rfl⟩
  | tick =>
    cases h
    exact ⟨rfl, rfl, rfl, rfl, rfl, rfl⟩
  | iteration =>
    obtain ⟨u, hu, rfl⟩ := settle_eq_next _ t ((exec_coreIter_of_input s hm).symm.trans h)
    rw [frIter_frame s u hu]
    exact ⟨rfl, rfl, rfl, rfl, rfl, rfl⟩
  | reset => exact absurd rfl hne

end Sys2Proof.Machine
end

section
/-! The whole machine with no word pending (45_handlers_and_main_loop.md R235; 60_exceptions.md R250): every step is the
step of an agent, completes, and issues no word. -/

namespace Sys2Proof.Machine

/-- An operation leaves the pending words, as it runs the same whatever words are pending. -/
theorem exec_commands (i : Instr) (s t : State) (h : exec i s = .next t) : t.commands = s.commands := by
  have hsame : exec i s = answerWithCommands s.commands (exec i s) := exec_withCommands s.commands i s
  rw [h] at hsame
  injection hsame with ht
  rw [ht]
  rfl

/-- In a state of an execution with no word pending the step completes in another such state, whichever agent is drawn. -/
theorem step_execInv (s : State) (hs : ExecInv s) (hnone : s.commands = []) :
    ∃ t, step s = .next t ∧ ExecInv t ∧ t.commands = [] := by
  obtain ⟨e, hstep⟩ := stepWithoutCommandRunsOneAgent s hnone
  obtain ⟨t, hexec, ht⟩ := agentStepsCompleteAndKeepTheInvariant { s with drawn := s.drawn + 1 } e { hs with }
  exact ⟨t, hstep.trans hexec, ht, (exec_commands _ _ t hexec).trans hnone⟩

/-- Settles O50, by induction on the number of steps: the first completes in a state from which the others run. -/
theorem theMachineNeverStops : Obligations.TheMachineNeverStops := by
  intro s n hs hnone
  induction n generalizing s with
  | zero => exact ⟨s, run_zero s, hs, hnone⟩
  | succ n ih =>
    obtain ⟨t, hstep, ht, hnone'⟩ := step_execInv s hs hnone
    rw [run_succ_of_next n s t hstep]
    exact ih t ht hnone'

end Sys2Proof.Machine
end

section
/-! The two handlers at the same instant (60_exceptions.md R260): neither reads a field the other writes. -/

namespace Sys2Proof.Machine

/-- A data edge reads neither `refresh_needed` nor the result of the operation before it, and leaves both (R122). -/
theorem bqWrite_with_refreshNeeded_result (bit pending : Bit) (r : Result) (s : State) :
    bqWrite bit { s with refreshNeeded := pending, result := r } =
      { bqWrite bit s with refreshNeeded := pending, result := r } := by
  rw [bqWrite_eq, bqWrite_eq]
  rfl

/-- The edge handler reads neither `refresh_needed` nor the result of the operation before it, and leaves both
(R231). -/
theorem irqEdge_with_refreshNeeded_result (level pending : Bit) (r : Result) (s : State) :
    irqEdge level { s with refreshNeeded := pending, result := r } =
      { irqEdge level s with refreshNeeded := pending, result := r } := by
  rw [irqEdge, irqEdge]
  split
  · exact bqWrite_with_refreshNeeded_result level pending r s
  · rfl

/-- Settles O42: in either order the edge does its work and the tick is pending, as the edge handler does not depend on
what the tick handler writes. -/
theorem edgeAndTickHandlersCommute : Obligations.EdgeAndTickHandlersCommute := by
  intro s level
  have hedgeFirst : runScript [.irqEdge level, .irqTick] s =
      .next ((irqTick (irqEdge level s)).returning .nothing) := rfl
  have htickFirst : runScript [.irqTick, .irqEdge level] s =
      .next ((irqEdge level ((irqTick s).returning .nothing)).returning .nothing) := rfl
  have hcommute : irqEdge level ((irqTick s).returning .nothing) = (irqTick (irqEdge level s)).returning .nothing :=
    irqEdge_with_refreshNeeded_result level true .nothing s
  exact ⟨_, hedgeFirst, by rw [htickFirst, hcommute]; rfl⟩

end Sys2Proof.Machine
end

section
/-! Reset and the first moments after it (45_handlers_and_main_loop.md R234; 70_reset_and_hazards.md R291). -/

namespace Sys2Proof.Machine

/-! ### The model's own fields -/

/-- Reset forgets the errors signalled before it (log entry 4). -/
@[simp] theorem coreRst_errorLog (s : State) : (coreRst s).errorLog = [] := rfl

/-- Settles O10: what `coreRst` leaves in the pending words, the count and the log, with the result of an operation that
returns nothing. -/
theorem coreRstOnTheModelsOwnFields : Obligations.CoreRstOnTheModelsOwnFields := by
  intro s
  have hreset : exec .coreRst s = .next ((coreRst s).returning .nothing) := rfl
  exact ⟨_, hreset, coreRst_commands s, coreRst_drawn s, State.returning_result _ _, coreRst_errorLog s⟩

/-! ### The first glyph cycle -/

/-- The iteration of a finished sender with a tick pending lowers the count line, takes the tick, and only then starts a
glyph cycle (R182). -/
theorem exec_coreIter_eq_mxNext (s : State) (hm : s.inputMode = false) (hf : s.srBitIndex.toNat = 8)
    (htick : s.refreshNeeded = true) :
    exec .coreIter s =
      .next ((mxNext { s.pinWrite .cnt false with refreshNeeded := false }).returning .nothing) := by
  rw [exec_coreIter_of_display s hm, mxStep_of_finished s hf, if_pos htick]

/-- The first cycle of a display that shows the number 0 is that of glyph 1, with all `N` positions set (R163, R181). -/
theorem mxNext_of_zero (s : State) (hglyph : s.currentGlyph = 0) (hvalue : s.displayValue = 0) :
    mxNext s = { s with
      currentGlyph := 1, srValue := 0x0F, srBitIndex := 0, srPhase := .lowPending
      out := { s.out with cnt := some true }, trace := s.trace ++ [⟨.cnt, true⟩] } := by
  have hnext : (advanceGlyph s).currentGlyph = 1 := by
    rw [advanceGlyph_of_lt s (by rw [hglyph]; decide), hglyph]
    rfl
  have hmask : glMask (0 : DisplayWord).toNat (1 : Nibble).toNat = 0x0F := by decide
  rw [(mxNext_eq s (by rw [hglyph]; decide)).1, hnext, hvalue, hmask, hglyph]
  rfl

/-- The machine after its first iteration, with no tick before it (R291). -/
def firstIdle (cells : CellStore) : State :=
  { State.reset with q := cells, out := ⟨none, none, some false, none⟩, trace := [⟨.cnt, false⟩] }

/-- Settles O12: the sender is finished at reset, so an iteration with no tick pending only lowers the count line, and
the first after a tick starts the cycle of the glyph after glyph 0. -/
theorem firstCycleAfterResetIsGlyphOne : Obligations.FirstCycleAfterResetIsGlyphOne := by
  intro cells
  have hidle : exec .coreIter { State.reset with q := cells } = .next (firstIdle cells) :=
    exec_coreIter_of_finished_idle _ rfl rfl rfl
  have htick : exec .irqTick (firstIdle cells) = .next ((irqTick (firstIdle cells)).returning .nothing) := rfl
  have hcycle := exec_coreIter_eq_mxNext ((irqTick (firstIdle cells)).returning .nothing) rfl rfl rfl
  rw [mxNext_of_zero _ rfl rfl] at hcycle
  exact ⟨firstIdle cells, _, runScript_cons_of_next _ [] _ _ hidle, rfl,
    (runScript_cons_of_next _ _ _ _ htick).trans (runScript_cons_of_next _ [] _ _ hcycle), rfl⟩

end Sys2Proof.Machine
end
